-- ==== Sys2Proof/Word.lean ====
section
/-! DEFINITION. The word and byte types of the core (00_scope.md R9, R10): every register, address and
instruction is one 32-bit word, and arithmetic on words is modulo 2^32. -/

namespace Sys2Proof

/-- A 32-bit word (R9, R20): a register value, an address or an instruction. -/
abbrev Word := BitVec 32

/-- One byte of physical memory (R61). -/
abbrev Byte := BitVec 8

end Sys2Proof
end

