-- ==== Sys2Proof/Config.lean ====
section
/-! DEFINITION. What an implementation fixes and what the outside world chooses: the OPEN parameters of
00_scope.md R9 that the step reads, the value of a byte nothing has written, and the one free value. -/

namespace Sys2Proof

/-- The class of a row of the opcode table (40_dispatch.md R157). `core` rows always exist; each other
class exists only when the OPEN parameter IMPLEMENTED_EXTRA holds it. -/
inductive InstrClass where
  | core | sbcRsc | mul | mull | clz | swp | ldrtStrt | blxReg | swi | bkpt
  deriving DecidableEq, Repr

/-- IMPLEMENTED_EXTRA (R9, D2): a subset of the nine classes the source does not name, one flag a class. -/
structure ExtraClasses where
  sbcRsc : Bool
  mul : Bool
  mull : Bool
  clz : Bool
  swp : Bool
  ldrtStrt : Bool
  blxReg : Bool
  swi : Bool
  bkpt : Bool
  deriving DecidableEq, Repr

/-- One device of the OPEN list PERIPHERALS: an inclusive range of physical addresses (20_memory.md R65). -/
structure Device where
  first : Word
  last : Word
  deriving DecidableEq, Repr

/-- The OPEN parameters that a step reads (R9). No step changes them, and no rule depends on a
particular value of them: a statement over all states holds for every value. -/
structure Params where
  extra : ExtraClasses
  peripherals : List Device
  deriving DecidableEq, Repr

namespace Config

/-- What a byte of physical memory reads as when nothing placed or wrote it. DESIGN CHOICE (log 2),
unsafe: R61 makes each such byte a free draw of INIT_MEM. -/
def unlistedByte : Byte := 0#8

/-- `DevRead` of 20_memory.md R65: the answer of an external device, a FREE VALUE with no body. Its
arguments are the number of device reads made before this one, the device's place in PERIPHERALS and
the offset. Log 5. -/
opaque deviceRead : Nat → Nat → Word → Word

end Config

end Sys2Proof
end

