-- ==== Sys2Proof/Syntax.lean ====
section
/-! DEFINITION. The instructions: one constructor for each of the 105 rows of spec/opcode_table.json, in the
table's order, with the fields 30_encoding.md R122 and the table give the row. Should-be bits (R130) are no
field: their value is fixed in a well-formed word. -/

namespace Sys2Proof

/-- The condition field (30_encoding.md R121), less the reserved value 0b1111, which no instruction has. -/
inductive Cond where
  | eq | ne | cs | cc | mi | pl | vs | vc | hi | ls | ge | lt | gt | le | al
  deriving DecidableEq, Repr

/-- A register number r0 to r15 (R11); 15 is the PC. -/
abbrev Reg := Fin 16

/-- The shift type field, bits 6:5 (R124). -/
inductive Shift where
  | lsl | lsr | asr | ror
  deriving DecidableEq, Repr

/-- The immediate operand of dp_imm and msr_imm: immed_8 rotated right by 2 × rotate_imm (R125). -/
structure ImmOp where
  rot : BitVec 4
  imm : BitVec 8
  deriving DecidableEq, Repr

/-- A register shifted by an immediate: dp_reg_imm_shift and ls_reg (R122). -/
structure RsiOp where
  amount : BitVec 5
  shift : Shift
  rm : Reg
  deriving DecidableEq, Repr

/-- A register shifted by a register: dp_reg_reg_shift (R122). -/
structure RsrOp where
  rs : Reg
  shift : Shift
  rm : Reg
  deriving DecidableEq, Repr

/-- An instruction. `c` is the condition, `f` the S bit, `r` the R bit (false CPSR, true SPSR), `p`, `u`
and `w` the P, U and W bits of a transfer; LDM2 and LDM3 hold bits 14:0 of the list, bit 15 being fixed. -/
inductive Instr where
  /-- MRS, R230: `cccc00010R00ooooddddzzzz0000zzzz`. -/
  | mrs (c : Cond) (r : Bool) (rd : Reg)
  /-- MSR_reg, R231: `cccc00010R10ffffoooozzzz0000mmmm`. -/
  | msrReg (c : Cond) (r : Bool) (mask : BitVec 4) (rm : Reg)
  /-- BX, R242: `cccc00010010oooooooooooo0001mmmm`. -/
  | bx (c : Cond) (rm : Reg)
  /-- BLX_reg, R244: `cccc00010010oooooooooooo0011mmmm`. -/
  | blxReg (c : Cond) (rm : Reg)
  /-- CLZ, R217: `cccc00010110ooooddddoooo0001mmmm`. -/
  | clz (c : Cond) (rd rm : Reg)
  /-- BKPT, R340: `oooz00010010kkkkkkkkkkkk0111kkkk`. -/
  | bkpt (c : Cond) (imm : BitVec 16)
  /-- MUL, R211: `cccc0000000Sddddzzzzssss1001mmmm`. -/
  | mul (c : Cond) (f : Bool) (rd rs rm : Reg)
  /-- MLA, R212: `cccc0000001Sddddnnnnssss1001mmmm`. -/
  | mla (c : Cond) (f : Bool) (rd rn rs rm : Reg)
  /-- UMULL, R213: `cccc0000100Shhhhddddssss1001mmmm`. -/
  | umull (c : Cond) (f : Bool) (rdHi rdLo rs rm : Reg)
  /-- UMLAL, R214: `cccc0000101Shhhhddddssss1001mmmm`. -/
  | umlal (c : Cond) (f : Bool) (rdHi rdLo rs rm : Reg)
  /-- SMULL, R215: `cccc0000110Shhhhddddssss1001mmmm`. -/
  | smull (c : Cond) (f : Bool) (rdHi rdLo rs rm : Reg)
  /-- SMLAL, R216: `cccc0000111Shhhhddddssss1001mmmm`. -/
  | smlal (c : Cond) (f : Bool) (rdHi rdLo rs rm : Reg)
  /-- SWP, R266: `cccc00010000nnnnddddzzzz1001mmmm`. -/
  | swp (c : Cond) (rn rd rm : Reg)
  /-- SWPB, R267: `cccc00010100nnnnddddzzzz1001mmmm`. -/
  | swpb (c : Cond) (rn rd rm : Reg)
  /-- STRH_imm, R263: `cccc000PU1W0nnnnddddkkkk1011kkkk`. -/
  | strhImm (c : Cond) (p u w : Bool) (rn rd : Reg) (off : BitVec 8)
  /-- STRH_reg, R263: `cccc000PU0W0nnnnddddzzzz1011mmmm`. -/
  | strhReg (c : Cond) (p u w : Bool) (rn rd rm : Reg)
  /-- LDRH_imm, R262: `cccc000PU1W1nnnnddddkkkk1011kkkk`. -/
  | ldrhImm (c : Cond) (p u w : Bool) (rn rd : Reg) (off : BitVec 8)
  /-- LDRH_reg, R262: `cccc000PU0W1nnnnddddzzzz1011mmmm`. -/
  | ldrhReg (c : Cond) (p u w : Bool) (rn rd rm : Reg)
  /-- LDRSB_imm, R264: `cccc000PU1W1nnnnddddkkkk1101kkkk`. -/
  | ldrsbImm (c : Cond) (p u w : Bool) (rn rd : Reg) (off : BitVec 8)
  /-- LDRSB_reg, R264: `cccc000PU0W1nnnnddddzzzz1101mmmm`. -/
  | ldrsbReg (c : Cond) (p u w : Bool) (rn rd rm : Reg)
  /-- LDRSH_imm, R265: `cccc000PU1W1nnnnddddkkkk1111kkkk`. -/
  | ldrshImm (c : Cond) (p u w : Bool) (rn rd : Reg) (off : BitVec 8)
  /-- LDRSH_reg, R265: `cccc000PU0W1nnnnddddzzzz1111mmmm`. -/
  | ldrshReg (c : Cond) (p u w : Bool) (rn rd rm : Reg)
  /-- MSR_imm, R231: `cccc00110R10ffffoooorrrrkkkkkkkk`. -/
  | msrImm (c : Cond) (r : Bool) (mask : BitVec 4) (op : ImmOp)
  /-- AND_imm, R185: `cccc0010000Snnnnddddrrrrkkkkkkkk`. -/
  | andImm (c : Cond) (f : Bool) (rn rd : Reg) (op : ImmOp)
  /-- AND_rsi, R185: `cccc0000000Snnnnddddiiiiitt0mmmm`. -/
  | andRsi (c : Cond) (f : Bool) (rn rd : Reg) (op : RsiOp)
  /-- AND_rsr, R185: `cccc0000000Snnnnddddssss0tt1mmmm`. -/
  | andRsr (c : Cond) (f : Bool) (rn rd : Reg) (op : RsrOp)
  /-- EOR_imm, R186: `cccc0010001Snnnnddddrrrrkkkkkkkk`. -/
  | eorImm (c : Cond) (f : Bool) (rn rd : Reg) (op : ImmOp)
  /-- EOR_rsi, R186: `cccc0000001Snnnnddddiiiiitt0mmmm`. -/
  | eorRsi (c : Cond) (f : Bool) (rn rd : Reg) (op : RsiOp)
  /-- EOR_rsr, R186: `cccc0000001Snnnnddddssss0tt1mmmm`. -/
  | eorRsr (c : Cond) (f : Bool) (rn rd : Reg) (op : RsrOp)
  /-- SUB_imm, R187: `cccc0010010Snnnnddddrrrrkkkkkkkk`. -/
  | subImm (c : Cond) (f : Bool) (rn rd : Reg) (op : ImmOp)
  /-- SUB_rsi, R187: `cccc0000010Snnnnddddiiiiitt0mmmm`. -/
  | subRsi (c : Cond) (f : Bool) (rn rd : Reg) (op : RsiOp)
  /-- SUB_rsr, R187: `cccc0000010Snnnnddddssss0tt1mmmm`. -/
  | subRsr (c : Cond) (f : Bool) (rn rd : Reg) (op : RsrOp)
  /-- RSB_imm, R188: `cccc0010011Snnnnddddrrrrkkkkkkkk`. -/
  | rsbImm (c : Cond) (f : Bool) (rn rd : Reg) (op : ImmOp)
  /-- RSB_rsi, R188: `cccc0000011Snnnnddddiiiiitt0mmmm`. -/
  | rsbRsi (c : Cond) (f : Bool) (rn rd : Reg) (op : RsiOp)
  /-- RSB_rsr, R188: `cccc0000011Snnnnddddssss0tt1mmmm`. -/
  | rsbRsr (c : Cond) (f : Bool) (rn rd : Reg) (op : RsrOp)
  /-- ADD_imm, R189: `cccc0010100Snnnnddddrrrrkkkkkkkk`. -/
  | addImm (c : Cond) (f : Bool) (rn rd : Reg) (op : ImmOp)
  /-- ADD_rsi, R189: `cccc0000100Snnnnddddiiiiitt0mmmm`. -/
  | addRsi (c : Cond) (f : Bool) (rn rd : Reg) (op : RsiOp)
  /-- ADD_rsr, R189: `cccc0000100Snnnnddddssss0tt1mmmm`. -/
  | addRsr (c : Cond) (f : Bool) (rn rd : Reg) (op : RsrOp)
  /-- ADC_imm, R190: `cccc0010101Snnnnddddrrrrkkkkkkkk`. -/
  | adcImm (c : Cond) (f : Bool) (rn rd : Reg) (op : ImmOp)
  /-- ADC_rsi, R190: `cccc0000101Snnnnddddiiiiitt0mmmm`. -/
  | adcRsi (c : Cond) (f : Bool) (rn rd : Reg) (op : RsiOp)
  /-- ADC_rsr, R190: `cccc0000101Snnnnddddssss0tt1mmmm`. -/
  | adcRsr (c : Cond) (f : Bool) (rn rd : Reg) (op : RsrOp)
  /-- SBC_imm, R191: `cccc0010110Snnnnddddrrrrkkkkkkkk`. -/
  | sbcImm (c : Cond) (f : Bool) (rn rd : Reg) (op : ImmOp)
  /-- SBC_rsi, R191: `cccc0000110Snnnnddddiiiiitt0mmmm`. -/
  | sbcRsi (c : Cond) (f : Bool) (rn rd : Reg) (op : RsiOp)
  /-- SBC_rsr, R191: `cccc0000110Snnnnddddssss0tt1mmmm`. -/
  | sbcRsr (c : Cond) (f : Bool) (rn rd : Reg) (op : RsrOp)
  /-- RSC_imm, R192: `cccc0010111Snnnnddddrrrrkkkkkkkk`. -/
  | rscImm (c : Cond) (f : Bool) (rn rd : Reg) (op : ImmOp)
  /-- RSC_rsi, R192: `cccc0000111Snnnnddddiiiiitt0mmmm`. -/
  | rscRsi (c : Cond) (f : Bool) (rn rd : Reg) (op : RsiOp)
  /-- RSC_rsr, R192: `cccc0000111Snnnnddddssss0tt1mmmm`. -/
  | rscRsr (c : Cond) (f : Bool) (rn rd : Reg) (op : RsrOp)
  /-- TST_imm, R193: `cccc00110001nnnnzzzzrrrrkkkkkkkk`. -/
  | tstImm (c : Cond) (rn : Reg) (op : ImmOp)
  /-- TST_rsi, R193: `cccc00010001nnnnzzzziiiiitt0mmmm`. -/
  | tstRsi (c : Cond) (rn : Reg) (op : RsiOp)
  /-- TST_rsr, R193: `cccc00010001nnnnzzzzssss0tt1mmmm`. -/
  | tstRsr (c : Cond) (rn : Reg) (op : RsrOp)
  /-- TEQ_imm, R194: `cccc00110011nnnnzzzzrrrrkkkkkkkk`. -/
  | teqImm (c : Cond) (rn : Reg) (op : ImmOp)
  /-- TEQ_rsi, R194: `cccc00010011nnnnzzzziiiiitt0mmmm`. -/
  | teqRsi (c : Cond) (rn : Reg) (op : RsiOp)
  /-- TEQ_rsr, R194: `cccc00010011nnnnzzzzssss0tt1mmmm`. -/
  | teqRsr (c : Cond) (rn : Reg) (op : RsrOp)
  /-- CMP_imm, R195: `cccc00110101nnnnzzzzrrrrkkkkkkkk`. -/
  | cmpImm (c : Cond) (rn : Reg) (op : ImmOp)
  /-- CMP_rsi, R195: `cccc00010101nnnnzzzziiiiitt0mmmm`. -/
  | cmpRsi (c : Cond) (rn : Reg) (op : RsiOp)
  /-- CMP_rsr, R195: `cccc00010101nnnnzzzzssss0tt1mmmm`. -/
  | cmpRsr (c : Cond) (rn : Reg) (op : RsrOp)
  /-- CMN_imm, R196: `cccc00110111nnnnzzzzrrrrkkkkkkkk`. -/
  | cmnImm (c : Cond) (rn : Reg) (op : ImmOp)
  /-- CMN_rsi, R196: `cccc00010111nnnnzzzziiiiitt0mmmm`. -/
  | cmnRsi (c : Cond) (rn : Reg) (op : RsiOp)
  /-- CMN_rsr, R196: `cccc00010111nnnnzzzzssss0tt1mmmm`. -/
  | cmnRsr (c : Cond) (rn : Reg) (op : RsrOp)
  /-- ORR_imm, R197: `cccc0011100Snnnnddddrrrrkkkkkkkk`. -/
  | orrImm (c : Cond) (f : Bool) (rn rd : Reg) (op : ImmOp)
  /-- ORR_rsi, R197: `cccc0001100Snnnnddddiiiiitt0mmmm`. -/
  | orrRsi (c : Cond) (f : Bool) (rn rd : Reg) (op : RsiOp)
  /-- ORR_rsr, R197: `cccc0001100Snnnnddddssss0tt1mmmm`. -/
  | orrRsr (c : Cond) (f : Bool) (rn rd : Reg) (op : RsrOp)
  /-- MOV_imm, R198: `cccc0011101Szzzzddddrrrrkkkkkkkk`. -/
  | movImm (c : Cond) (f : Bool) (rd : Reg) (op : ImmOp)
  /-- MOV_rsi, R198: `cccc0001101Szzzzddddiiiiitt0mmmm`. -/
  | movRsi (c : Cond) (f : Bool) (rd : Reg) (op : RsiOp)
  /-- MOV_rsr, R198: `cccc0001101Szzzzddddssss0tt1mmmm`. -/
  | movRsr (c : Cond) (f : Bool) (rd : Reg) (op : RsrOp)
  /-- BIC_imm, R199: `cccc0011110Snnnnddddrrrrkkkkkkkk`. -/
  | bicImm (c : Cond) (f : Bool) (rn rd : Reg) (op : ImmOp)
  /-- BIC_rsi, R199: `cccc0001110Snnnnddddiiiiitt0mmmm`. -/
  | bicRsi (c : Cond) (f : Bool) (rn rd : Reg) (op : RsiOp)
  /-- BIC_rsr, R199: `cccc0001110Snnnnddddssss0tt1mmmm`. -/
  | bicRsr (c : Cond) (f : Bool) (rn rd : Reg) (op : RsrOp)
  /-- MVN_imm, R200: `cccc0011111Szzzzddddrrrrkkkkkkkk`. -/
  | mvnImm (c : Cond) (f : Bool) (rd : Reg) (op : ImmOp)
  /-- MVN_rsi, R200: `cccc0001111Szzzzddddiiiiitt0mmmm`. -/
  | mvnRsi (c : Cond) (f : Bool) (rd : Reg) (op : RsiOp)
  /-- MVN_rsr, R200: `cccc0001111Szzzzddddssss0tt1mmmm`. -/
  | mvnRsr (c : Cond) (f : Bool) (rd : Reg) (op : RsrOp)
  /-- STR_imm_pre, R253: `cccc0101U0W0nnnnddddkkkkkkkkkkkk`. -/
  | strImmPre (c : Cond) (u w : Bool) (rn rd : Reg) (off : BitVec 12)
  /-- STR_imm_post, R253: `cccc0100U000nnnnddddkkkkkkkkkkkk`. -/
  | strImmPost (c : Cond) (u : Bool) (rn rd : Reg) (off : BitVec 12)
  /-- STRT_imm, R258: `cccc0100U010nnnnddddkkkkkkkkkkkk`. -/
  | strtImm (c : Cond) (u : Bool) (rn rd : Reg) (off : BitVec 12)
  /-- STR_reg_pre, R253: `cccc0111U0W0nnnnddddiiiiitt0mmmm`. -/
  | strRegPre (c : Cond) (u w : Bool) (rn rd : Reg) (op : RsiOp)
  /-- STR_reg_post, R253: `cccc0110U000nnnnddddiiiiitt0mmmm`. -/
  | strRegPost (c : Cond) (u : Bool) (rn rd : Reg) (op : RsiOp)
  /-- STRT_reg, R258: `cccc0110U010nnnnddddiiiiitt0mmmm`. -/
  | strtReg (c : Cond) (u : Bool) (rn rd : Reg) (op : RsiOp)
  /-- LDR_imm_pre, R252: `cccc0101U0W1nnnnddddkkkkkkkkkkkk`. -/
  | ldrImmPre (c : Cond) (u w : Bool) (rn rd : Reg) (off : BitVec 12)
  /-- LDR_imm_post, R252: `cccc0100U001nnnnddddkkkkkkkkkkkk`. -/
  | ldrImmPost (c : Cond) (u : Bool) (rn rd : Reg) (off : BitVec 12)
  /-- LDRT_imm, R257: `cccc0100U011nnnnddddkkkkkkkkkkkk`. -/
  | ldrtImm (c : Cond) (u : Bool) (rn rd : Reg) (off : BitVec 12)
  /-- LDR_reg_pre, R252: `cccc0111U0W1nnnnddddiiiiitt0mmmm`. -/
  | ldrRegPre (c : Cond) (u w : Bool) (rn rd : Reg) (op : RsiOp)
  /-- LDR_reg_post, R252: `cccc0110U001nnnnddddiiiiitt0mmmm`. -/
  | ldrRegPost (c : Cond) (u : Bool) (rn rd : Reg) (op : RsiOp)
  /-- LDRT_reg, R257: `cccc0110U011nnnnddddiiiiitt0mmmm`. -/
  | ldrtReg (c : Cond) (u : Bool) (rn rd : Reg) (op : RsiOp)
  /-- STRB_imm_pre, R255: `cccc0101U1W0nnnnddddkkkkkkkkkkkk`. -/
  | strbImmPre (c : Cond) (u w : Bool) (rn rd : Reg) (off : BitVec 12)
  /-- STRB_imm_post, R255: `cccc0100U100nnnnddddkkkkkkkkkkkk`. -/
  | strbImmPost (c : Cond) (u : Bool) (rn rd : Reg) (off : BitVec 12)
  /-- STRBT_imm, R260: `cccc0100U110nnnnddddkkkkkkkkkkkk`. -/
  | strbtImm (c : Cond) (u : Bool) (rn rd : Reg) (off : BitVec 12)
  /-- STRB_reg_pre, R255: `cccc0111U1W0nnnnddddiiiiitt0mmmm`. -/
  | strbRegPre (c : Cond) (u w : Bool) (rn rd : Reg) (op : RsiOp)
  /-- STRB_reg_post, R255: `cccc0110U100nnnnddddiiiiitt0mmmm`. -/
  | strbRegPost (c : Cond) (u : Bool) (rn rd : Reg) (op : RsiOp)
  /-- STRBT_reg, R260: `cccc0110U110nnnnddddiiiiitt0mmmm`. -/
  | strbtReg (c : Cond) (u : Bool) (rn rd : Reg) (op : RsiOp)
  /-- LDRB_imm_pre, R254: `cccc0101U1W1nnnnddddkkkkkkkkkkkk`. -/
  | ldrbImmPre (c : Cond) (u w : Bool) (rn rd : Reg) (off : BitVec 12)
  /-- LDRB_imm_post, R254: `cccc0100U101nnnnddddkkkkkkkkkkkk`. -/
  | ldrbImmPost (c : Cond) (u : Bool) (rn rd : Reg) (off : BitVec 12)
  /-- LDRBT_imm, R259: `cccc0100U111nnnnddddkkkkkkkkkkkk`. -/
  | ldrbtImm (c : Cond) (u : Bool) (rn rd : Reg) (off : BitVec 12)
  /-- LDRB_reg_pre, R254: `cccc0111U1W1nnnnddddiiiiitt0mmmm`. -/
  | ldrbRegPre (c : Cond) (u w : Bool) (rn rd : Reg) (op : RsiOp)
  /-- LDRB_reg_post, R254: `cccc0110U101nnnnddddiiiiitt0mmmm`. -/
  | ldrbRegPost (c : Cond) (u : Bool) (rn rd : Reg) (op : RsiOp)
  /-- LDRBT_reg, R259: `cccc0110U111nnnnddddiiiiitt0mmmm`. -/
  | ldrbtReg (c : Cond) (u : Bool) (rn rd : Reg) (op : RsiOp)
  /-- STM1, R296: `cccc100PU0W0nnnnllllllllllllllll`. -/
  | stm1 (c : Cond) (p u w : Bool) (rn : Reg) (list : BitVec 16)
  /-- STM2, R297: `cccc100PU1W0nnnnllllllllllllllll`. -/
  | stm2 (c : Cond) (p u w : Bool) (rn : Reg) (list : BitVec 16)
  /-- LDM1, R292: `cccc100PU0W1nnnnllllllllllllllll`. -/
  | ldm1 (c : Cond) (p u w : Bool) (rn : Reg) (list : BitVec 16)
  /-- LDM2, R294: `cccc100PU1W1nnnn0lllllllllllllll`. -/
  | ldm2 (c : Cond) (p u w : Bool) (rn : Reg) (list : BitVec 15)
  /-- LDM3, R295: `cccc100PU1W1nnnn1lllllllllllllll`. -/
  | ldm3 (c : Cond) (p u w : Bool) (rn : Reg) (list : BitVec 15)
  /-- B, R240: `cccc1010kkkkkkkkkkkkkkkkkkkkkkkk`. -/
  | b (c : Cond) (off : BitVec 24)
  /-- BL, R241: `cccc1011kkkkkkkkkkkkkkkkkkkkkkkk`. -/
  | bl (c : Cond) (off : BitVec 24)
  /-- MCR, R312: `cccc1110xxx0nnnnddddppppyyy1mmmm`. -/
  | mcr (c : Cond) (op1 : BitVec 3) (crn : BitVec 4) (rd : Reg) (cp : BitVec 4) (op2 : BitVec 3) (crm : BitVec 4)
  /-- MRC, R313: `cccc1110xxx1nnnnddddppppyyy1mmmm`. -/
  | mrc (c : Cond) (op1 : BitVec 3) (crn : BitVec 4) (rd : Reg) (cp : BitVec 4) (op2 : BitVec 3) (crm : BitVec 4)
  /-- SWI, R339: `cccc1111kkkkkkkkkkkkkkkkkkkkkkkk`. -/
  | swi (c : Cond) (imm : BitVec 24)
  deriving DecidableEq, Repr

end Sys2Proof
end

