-- ==== Sys2Proof/WellFormed.lean ====
section
/-! DEFINITION. The static check of an instruction: whether it is a word of the table at all. The types of
Syntax.lean already bound every field, so that one check is left: BKPT has a fixed condition (30_encoding.md
R122, R130). Forms that a rule refuses when they execute (R178, R210, R268, R299, ...) are well-formed words:
the meanings refuse them. -/

namespace Sys2Proof

/-- An instruction that some word without a wrong should-be field stands for: every one but a BKPT whose
condition is not AL (R130, R340). -/
def Instr.wellFormed : Instr → Bool
  | .bkpt c _ => c == .al
  | _ => true

end Sys2Proof
end

