-- ==== Sys2Proof/Decode.lean ====
section
/-! DEFINITION. The decoder (30_encoding.md R121 to R132, 40_dispatch.md R155 to R157): the 105 rows of
spec/opcode_table.json in scan order, the first row that matches wins, and a word no row matches is rejected by
name. After it the encoder, written from the same table: a row's match bits and the fields at their places. -/

namespace Sys2Proof

/-! ### Fields of a word -/

/-- The condition of a condition field (R121); 0b1111 is reserved (R132). -/
def Cond.ofBits (b : BitVec 4) : Option Cond :=
  match b.toNat with
  | 0 => some .eq | 1 => some .ne | 2 => some .cs | 3 => some .cc | 4 => some .mi
  | 5 => some .pl | 6 => some .vs | 7 => some .vc | 8 => some .hi | 9 => some .ls
  | 10 => some .ge | 11 => some .lt | 12 => some .gt | 13 => some .le | 14 => some .al
  | _ => none

/-- The condition field of a condition (R121). -/
def Cond.bits : Cond → BitVec 4
  | .eq => 0b0000 | .ne => 0b0001 | .cs => 0b0010 | .cc => 0b0011 | .mi => 0b0100
  | .pl => 0b0101 | .vs => 0b0110 | .vc => 0b0111 | .hi => 0b1000 | .ls => 0b1001
  | .ge => 0b1010 | .lt => 0b1011 | .gt => 0b1100 | .le => 0b1101 | .al => 0b1110

/-- The shift type of bits 6:5 (R124). -/
def Shift.ofBits (b : BitVec 2) : Shift :=
  match b.toNat with
  | 0 => .lsl | 1 => .lsr | 2 => .asr | _ => .ror

/-- Bits 6:5 of a shift type (R124). -/
def Shift.bits : Shift → BitVec 2
  | .lsl => 0b00 | .lsr => 0b01 | .asr => 0b10 | .ror => 0b11

/-- The 4-bit field of a register number. -/
def Reg.bits (r : Reg) : BitVec 4 := BitVec.ofFin r

/-- The register number in the four bits of w from bit `lo` up. -/
def regAt (lo : Nat) (w : Word) : Reg := (w.extractLsb' lo 4).toFin

/-- The condition field, bits 31:28. -/
def condField (w : Word) : BitVec 4 := w.extractLsb' 28 4

/-- The condition of a word whose condition field is not reserved. -/
def condAt (w : Word) : Cond := (Cond.ofBits (condField w)).getD .al

/-- rotate_imm and immed_8 (dp_imm, msr_imm). -/
def immOpAt (w : Word) : ImmOp := ⟨w.extractLsb' 8 4, w.extractLsb' 0 8⟩

/-- shift_imm, shift and Rm (dp_reg_imm_shift, ls_reg). -/
def rsiOpAt (w : Word) : RsiOp := ⟨w.extractLsb' 7 5, .ofBits (w.extractLsb' 5 2), regAt 0 w⟩

/-- Rs, shift and Rm (dp_reg_reg_shift). -/
def rsrOpAt (w : Word) : RsrOp := ⟨regAt 8 w, .ofBits (w.extractLsb' 5 2), regAt 0 w⟩

/-! ### The operands of each format (R122) -/

def dpImmOf (k : Cond → Bool → Reg → Reg → ImmOp → Instr) (w : Word) : Instr :=
  k (condAt w) (w.getLsbD 20) (regAt 16 w) (regAt 12 w) (immOpAt w)

def dpRsiOf (k : Cond → Bool → Reg → Reg → RsiOp → Instr) (w : Word) : Instr :=
  k (condAt w) (w.getLsbD 20) (regAt 16 w) (regAt 12 w) (rsiOpAt w)

def dpRsrOf (k : Cond → Bool → Reg → Reg → RsrOp → Instr) (w : Word) : Instr :=
  k (condAt w) (w.getLsbD 20) (regAt 16 w) (regAt 12 w) (rsrOpAt w)

def movImmOf (k : Cond → Bool → Reg → ImmOp → Instr) (w : Word) : Instr :=
  k (condAt w) (w.getLsbD 20) (regAt 12 w) (immOpAt w)

def movRsiOf (k : Cond → Bool → Reg → RsiOp → Instr) (w : Word) : Instr :=
  k (condAt w) (w.getLsbD 20) (regAt 12 w) (rsiOpAt w)

def movRsrOf (k : Cond → Bool → Reg → RsrOp → Instr) (w : Word) : Instr :=
  k (condAt w) (w.getLsbD 20) (regAt 12 w) (rsrOpAt w)

def cmpImmOf (k : Cond → Reg → ImmOp → Instr) (w : Word) : Instr :=
  k (condAt w) (regAt 16 w) (immOpAt w)

def cmpRsiOf (k : Cond → Reg → RsiOp → Instr) (w : Word) : Instr :=
  k (condAt w) (regAt 16 w) (rsiOpAt w)

def cmpRsrOf (k : Cond → Reg → RsrOp → Instr) (w : Word) : Instr :=
  k (condAt w) (regAt 16 w) (rsrOpAt w)

def mulOf (k : Cond → Bool → Reg → Reg → Reg → Instr) (w : Word) : Instr :=
  k (condAt w) (w.getLsbD 20) (regAt 16 w) (regAt 8 w) (regAt 0 w)

def mlaOf (k : Cond → Bool → Reg → Reg → Reg → Reg → Instr) (w : Word) : Instr :=
  k (condAt w) (w.getLsbD 20) (regAt 16 w) (regAt 12 w) (regAt 8 w) (regAt 0 w)

def mullOf (k : Cond → Bool → Reg → Reg → Reg → Reg → Instr) (w : Word) : Instr :=
  k (condAt w) (w.getLsbD 20) (regAt 16 w) (regAt 12 w) (regAt 8 w) (regAt 0 w)

def clzOf (k : Cond → Reg → Reg → Instr) (w : Word) : Instr := k (condAt w) (regAt 12 w) (regAt 0 w)

def bxOf (k : Cond → Reg → Instr) (w : Word) : Instr := k (condAt w) (regAt 0 w)

def bkptOf (k : Cond → BitVec 16 → Instr) (w : Word) : Instr :=
  k (condAt w) (w.extractLsb' 8 12 ++ w.extractLsb' 0 4)

def swpOf (k : Cond → Reg → Reg → Reg → Instr) (w : Word) : Instr :=
  k (condAt w) (regAt 16 w) (regAt 12 w) (regAt 0 w)

def mrsOf (k : Cond → Bool → Reg → Instr) (w : Word) : Instr := k (condAt w) (w.getLsbD 22) (regAt 12 w)

def msrImmOf (k : Cond → Bool → BitVec 4 → ImmOp → Instr) (w : Word) : Instr :=
  k (condAt w) (w.getLsbD 22) (w.extractLsb' 16 4) (immOpAt w)

def msrRegOf (k : Cond → Bool → BitVec 4 → Reg → Instr) (w : Word) : Instr :=
  k (condAt w) (w.getLsbD 22) (w.extractLsb' 16 4) (regAt 0 w)

def lsImmPreOf (k : Cond → Bool → Bool → Reg → Reg → BitVec 12 → Instr) (w : Word) : Instr :=
  k (condAt w) (w.getLsbD 23) (w.getLsbD 21) (regAt 16 w) (regAt 12 w) (w.extractLsb' 0 12)

def lsImmPostOf (k : Cond → Bool → Reg → Reg → BitVec 12 → Instr) (w : Word) : Instr :=
  k (condAt w) (w.getLsbD 23) (regAt 16 w) (regAt 12 w) (w.extractLsb' 0 12)

def lsRegPreOf (k : Cond → Bool → Bool → Reg → Reg → RsiOp → Instr) (w : Word) : Instr :=
  k (condAt w) (w.getLsbD 23) (w.getLsbD 21) (regAt 16 w) (regAt 12 w) (rsiOpAt w)

def lsRegPostOf (k : Cond → Bool → Reg → Reg → RsiOp → Instr) (w : Word) : Instr :=
  k (condAt w) (w.getLsbD 23) (regAt 16 w) (regAt 12 w) (rsiOpAt w)

def halfImmOf (k : Cond → Bool → Bool → Bool → Reg → Reg → BitVec 8 → Instr) (w : Word) : Instr :=
  k (condAt w) (w.getLsbD 24) (w.getLsbD 23) (w.getLsbD 21) (regAt 16 w) (regAt 12 w)
    (w.extractLsb' 8 4 ++ w.extractLsb' 0 4)

def halfRegOf (k : Cond → Bool → Bool → Bool → Reg → Reg → Reg → Instr) (w : Word) : Instr :=
  k (condAt w) (w.getLsbD 24) (w.getLsbD 23) (w.getLsbD 21) (regAt 16 w) (regAt 12 w) (regAt 0 w)

def block16Of (k : Cond → Bool → Bool → Bool → Reg → BitVec 16 → Instr) (w : Word) : Instr :=
  k (condAt w) (w.getLsbD 24) (w.getLsbD 23) (w.getLsbD 21) (regAt 16 w) (w.extractLsb' 0 16)

def block15Of (k : Cond → Bool → Bool → Bool → Reg → BitVec 15 → Instr) (w : Word) : Instr :=
  k (condAt w) (w.getLsbD 24) (w.getLsbD 23) (w.getLsbD 21) (regAt 16 w) (w.extractLsb' 0 15)

def branchOf (k : Cond → BitVec 24 → Instr) (w : Word) : Instr := k (condAt w) (w.extractLsb' 0 24)

def coprocOf (k : Cond → BitVec 3 → BitVec 4 → Reg → BitVec 4 → BitVec 3 → BitVec 4 → Instr) (w : Word) : Instr :=
  k (condAt w) (w.extractLsb' 21 3) (w.extractLsb' 16 4) (regAt 12 w) (w.extractLsb' 8 4)
    (w.extractLsb' 5 3) (w.extractLsb' 0 4)

def swiOf (k : Cond → BitVec 24 → Instr) (w : Word) : Instr := k (condAt w) (w.extractLsb' 0 24)

/-! ### The opcode table (R127, R128) -/

/-- A row of the table: the identifying bits (`mask`, `value`), the should-be bits (`sbMask`, `sbValue`,
R130), the class (R157) and how the operands are read. -/
structure Row where
  value : Word
  mask : Word
  sbMask : Word
  sbValue : Word
  cls : InstrClass
  operands : Word → Instr

/-- Rows 1 to 6: MRS, MSR_reg, BX, BLX_reg, CLZ, BKPT. -/
def miscRows : List Row := [
  ⟨0x01000000, 0x0FB000F0, 0x000F0F0F, 0x000F0000, .core, mrsOf .mrs⟩,
  ⟨0x01200000, 0x0FB000F0, 0x0000FF00, 0x0000F000, .core, msrRegOf .msrReg⟩,
  ⟨0x01200010, 0x0FF000F0, 0x000FFF00, 0x000FFF00, .core, bxOf .bx⟩,
  ⟨0x01200030, 0x0FF000F0, 0x000FFF00, 0x000FFF00, .blxReg, bxOf .blxReg⟩,
  ⟨0x01600010, 0x0FF000F0, 0x000F0F00, 0x000F0F00, .clz, clzOf .clz⟩,
  ⟨0x01200070, 0x0FF000F0, 0xF0000000, 0xE0000000, .bkpt, bkptOf .bkpt⟩]

/-- Rows 7 to 14: MUL, MLA, UMULL, UMLAL, SMULL, SMLAL, SWP, SWPB. -/
def multiplyRows : List Row := [
  ⟨0x00000090, 0x0FE000F0, 0x0000F000, 0x00000000, .mul, mulOf .mul⟩,
  ⟨0x00200090, 0x0FE000F0, 0, 0, .mul, mlaOf .mla⟩,
  ⟨0x00800090, 0x0FE000F0, 0, 0, .mull, mullOf .umull⟩,
  ⟨0x00A00090, 0x0FE000F0, 0, 0, .mull, mullOf .umlal⟩,
  ⟨0x00C00090, 0x0FE000F0, 0, 0, .mull, mullOf .smull⟩,
  ⟨0x00E00090, 0x0FE000F0, 0, 0, .mull, mullOf .smlal⟩,
  ⟨0x01000090, 0x0FF000F0, 0x00000F00, 0x00000000, .swp, swpOf .swp⟩,
  ⟨0x01400090, 0x0FF000F0, 0x00000F00, 0x00000000, .swp, swpOf .swpb⟩]

/-- Rows 15 to 22: STRH, LDRH, LDRSB, LDRSH. -/
def halfwordRows : List Row := [
  ⟨0x004000B0, 0x0E5000F0, 0, 0, .core, halfImmOf .strhImm⟩,
  ⟨0x000000B0, 0x0E5000F0, 0x00000F00, 0x00000000, .core, halfRegOf .strhReg⟩,
  ⟨0x005000B0, 0x0E5000F0, 0, 0, .core, halfImmOf .ldrhImm⟩,
  ⟨0x001000B0, 0x0E5000F0, 0x00000F00, 0x00000000, .core, halfRegOf .ldrhReg⟩,
  ⟨0x005000D0, 0x0E5000F0, 0, 0, .core, halfImmOf .ldrsbImm⟩,
  ⟨0x001000D0, 0x0E5000F0, 0x00000F00, 0x00000000, .core, halfRegOf .ldrsbReg⟩,
  ⟨0x005000F0, 0x0E5000F0, 0, 0, .core, halfImmOf .ldrshImm⟩,
  ⟨0x001000F0, 0x0E5000F0, 0x00000F00, 0x00000000, .core, halfRegOf .ldrshReg⟩]

/-- Rows 23 to 23: MSR_imm. -/
def msrImmRow : List Row := [
  ⟨0x03200000, 0x0FB00000, 0x0000F000, 0x0000F000, .core, msrImmOf .msrImm⟩]

/-- Rows 24 to 47: AND, EOR, SUB, RSB, ADD, ADC, SBC, RSC. -/
def dpRows1 : List Row := [
  ⟨0x02000000, 0x0FE00000, 0, 0, .core, dpImmOf .andImm⟩,
  ⟨0x00000000, 0x0FE00010, 0, 0, .core, dpRsiOf .andRsi⟩,
  ⟨0x00000010, 0x0FE00090, 0, 0, .core, dpRsrOf .andRsr⟩,
  ⟨0x02200000, 0x0FE00000, 0, 0, .core, dpImmOf .eorImm⟩,
  ⟨0x00200000, 0x0FE00010, 0, 0, .core, dpRsiOf .eorRsi⟩,
  ⟨0x00200010, 0x0FE00090, 0, 0, .core, dpRsrOf .eorRsr⟩,
  ⟨0x02400000, 0x0FE00000, 0, 0, .core, dpImmOf .subImm⟩,
  ⟨0x00400000, 0x0FE00010, 0, 0, .core, dpRsiOf .subRsi⟩,
  ⟨0x00400010, 0x0FE00090, 0, 0, .core, dpRsrOf .subRsr⟩,
  ⟨0x02600000, 0x0FE00000, 0, 0, .core, dpImmOf .rsbImm⟩,
  ⟨0x00600000, 0x0FE00010, 0, 0, .core, dpRsiOf .rsbRsi⟩,
  ⟨0x00600010, 0x0FE00090, 0, 0, .core, dpRsrOf .rsbRsr⟩,
  ⟨0x02800000, 0x0FE00000, 0, 0, .core, dpImmOf .addImm⟩,
  ⟨0x00800000, 0x0FE00010, 0, 0, .core, dpRsiOf .addRsi⟩,
  ⟨0x00800010, 0x0FE00090, 0, 0, .core, dpRsrOf .addRsr⟩,
  ⟨0x02A00000, 0x0FE00000, 0, 0, .core, dpImmOf .adcImm⟩,
  ⟨0x00A00000, 0x0FE00010, 0, 0, .core, dpRsiOf .adcRsi⟩,
  ⟨0x00A00010, 0x0FE00090, 0, 0, .core, dpRsrOf .adcRsr⟩,
  ⟨0x02C00000, 0x0FE00000, 0, 0, .sbcRsc, dpImmOf .sbcImm⟩,
  ⟨0x00C00000, 0x0FE00010, 0, 0, .sbcRsc, dpRsiOf .sbcRsi⟩,
  ⟨0x00C00010, 0x0FE00090, 0, 0, .sbcRsc, dpRsrOf .sbcRsr⟩,
  ⟨0x02E00000, 0x0FE00000, 0, 0, .sbcRsc, dpImmOf .rscImm⟩,
  ⟨0x00E00000, 0x0FE00010, 0, 0, .sbcRsc, dpRsiOf .rscRsi⟩,
  ⟨0x00E00010, 0x0FE00090, 0, 0, .sbcRsc, dpRsrOf .rscRsr⟩]

/-- Rows 48 to 71: TST, TEQ, CMP, CMN, ORR, MOV, BIC, MVN. -/
def dpRows2 : List Row := [
  ⟨0x03100000, 0x0FF00000, 0x0000F000, 0x00000000, .core, cmpImmOf .tstImm⟩,
  ⟨0x01100000, 0x0FF00010, 0x0000F000, 0x00000000, .core, cmpRsiOf .tstRsi⟩,
  ⟨0x01100010, 0x0FF00090, 0x0000F000, 0x00000000, .core, cmpRsrOf .tstRsr⟩,
  ⟨0x03300000, 0x0FF00000, 0x0000F000, 0x00000000, .core, cmpImmOf .teqImm⟩,
  ⟨0x01300000, 0x0FF00010, 0x0000F000, 0x00000000, .core, cmpRsiOf .teqRsi⟩,
  ⟨0x01300010, 0x0FF00090, 0x0000F000, 0x00000000, .core, cmpRsrOf .teqRsr⟩,
  ⟨0x03500000, 0x0FF00000, 0x0000F000, 0x00000000, .core, cmpImmOf .cmpImm⟩,
  ⟨0x01500000, 0x0FF00010, 0x0000F000, 0x00000000, .core, cmpRsiOf .cmpRsi⟩,
  ⟨0x01500010, 0x0FF00090, 0x0000F000, 0x00000000, .core, cmpRsrOf .cmpRsr⟩,
  ⟨0x03700000, 0x0FF00000, 0x0000F000, 0x00000000, .core, cmpImmOf .cmnImm⟩,
  ⟨0x01700000, 0x0FF00010, 0x0000F000, 0x00000000, .core, cmpRsiOf .cmnRsi⟩,
  ⟨0x01700010, 0x0FF00090, 0x0000F000, 0x00000000, .core, cmpRsrOf .cmnRsr⟩,
  ⟨0x03800000, 0x0FE00000, 0, 0, .core, dpImmOf .orrImm⟩,
  ⟨0x01800000, 0x0FE00010, 0, 0, .core, dpRsiOf .orrRsi⟩,
  ⟨0x01800010, 0x0FE00090, 0, 0, .core, dpRsrOf .orrRsr⟩,
  ⟨0x03A00000, 0x0FE00000, 0x000F0000, 0x00000000, .core, movImmOf .movImm⟩,
  ⟨0x01A00000, 0x0FE00010, 0x000F0000, 0x00000000, .core, movRsiOf .movRsi⟩,
  ⟨0x01A00010, 0x0FE00090, 0x000F0000, 0x00000000, .core, movRsrOf .movRsr⟩,
  ⟨0x03C00000, 0x0FE00000, 0, 0, .core, dpImmOf .bicImm⟩,
  ⟨0x01C00000, 0x0FE00010, 0, 0, .core, dpRsiOf .bicRsi⟩,
  ⟨0x01C00010, 0x0FE00090, 0, 0, .core, dpRsrOf .bicRsr⟩,
  ⟨0x03E00000, 0x0FE00000, 0x000F0000, 0x00000000, .core, movImmOf .mvnImm⟩,
  ⟨0x01E00000, 0x0FE00010, 0x000F0000, 0x00000000, .core, movRsiOf .mvnRsi⟩,
  ⟨0x01E00010, 0x0FE00090, 0x000F0000, 0x00000000, .core, movRsrOf .mvnRsr⟩]

/-- Rows 72 to 95: STR, STRT, LDR, LDRT, STRB, STRBT, LDRB, LDRBT. -/
def singleRows : List Row := [
  ⟨0x05000000, 0x0F500000, 0, 0, .core, lsImmPreOf .strImmPre⟩,
  ⟨0x04000000, 0x0F700000, 0, 0, .core, lsImmPostOf .strImmPost⟩,
  ⟨0x04200000, 0x0F700000, 0, 0, .ldrtStrt, lsImmPostOf .strtImm⟩,
  ⟨0x07000000, 0x0F500010, 0, 0, .core, lsRegPreOf .strRegPre⟩,
  ⟨0x06000000, 0x0F700010, 0, 0, .core, lsRegPostOf .strRegPost⟩,
  ⟨0x06200000, 0x0F700010, 0, 0, .ldrtStrt, lsRegPostOf .strtReg⟩,
  ⟨0x05100000, 0x0F500000, 0, 0, .core, lsImmPreOf .ldrImmPre⟩,
  ⟨0x04100000, 0x0F700000, 0, 0, .core, lsImmPostOf .ldrImmPost⟩,
  ⟨0x04300000, 0x0F700000, 0, 0, .ldrtStrt, lsImmPostOf .ldrtImm⟩,
  ⟨0x07100000, 0x0F500010, 0, 0, .core, lsRegPreOf .ldrRegPre⟩,
  ⟨0x06100000, 0x0F700010, 0, 0, .core, lsRegPostOf .ldrRegPost⟩,
  ⟨0x06300000, 0x0F700010, 0, 0, .ldrtStrt, lsRegPostOf .ldrtReg⟩,
  ⟨0x05400000, 0x0F500000, 0, 0, .core, lsImmPreOf .strbImmPre⟩,
  ⟨0x04400000, 0x0F700000, 0, 0, .core, lsImmPostOf .strbImmPost⟩,
  ⟨0x04600000, 0x0F700000, 0, 0, .ldrtStrt, lsImmPostOf .strbtImm⟩,
  ⟨0x07400000, 0x0F500010, 0, 0, .core, lsRegPreOf .strbRegPre⟩,
  ⟨0x06400000, 0x0F700010, 0, 0, .core, lsRegPostOf .strbRegPost⟩,
  ⟨0x06600000, 0x0F700010, 0, 0, .ldrtStrt, lsRegPostOf .strbtReg⟩,
  ⟨0x05500000, 0x0F500000, 0, 0, .core, lsImmPreOf .ldrbImmPre⟩,
  ⟨0x04500000, 0x0F700000, 0, 0, .core, lsImmPostOf .ldrbImmPost⟩,
  ⟨0x04700000, 0x0F700000, 0, 0, .ldrtStrt, lsImmPostOf .ldrbtImm⟩,
  ⟨0x07500000, 0x0F500010, 0, 0, .core, lsRegPreOf .ldrbRegPre⟩,
  ⟨0x06500000, 0x0F700010, 0, 0, .core, lsRegPostOf .ldrbRegPost⟩,
  ⟨0x06700000, 0x0F700010, 0, 0, .ldrtStrt, lsRegPostOf .ldrbtReg⟩]

/-- Rows 96 to 100: STM1, STM2, LDM1, LDM2, LDM3. -/
def blockRows : List Row := [
  ⟨0x08000000, 0x0E500000, 0, 0, .core, block16Of .stm1⟩,
  ⟨0x08400000, 0x0E500000, 0, 0, .core, block16Of .stm2⟩,
  ⟨0x08100000, 0x0E500000, 0, 0, .core, block16Of .ldm1⟩,
  ⟨0x08500000, 0x0E508000, 0, 0, .core, block15Of .ldm2⟩,
  ⟨0x08508000, 0x0E508000, 0, 0, .core, block15Of .ldm3⟩]

/-- Rows 101 to 105: B, BL, MCR, MRC, SWI. -/
def branchRows : List Row := [
  ⟨0x0A000000, 0x0F000000, 0, 0, .core, branchOf .b⟩,
  ⟨0x0B000000, 0x0F000000, 0, 0, .core, branchOf .bl⟩,
  ⟨0x0E000010, 0x0F100010, 0, 0, .core, coprocOf .mcr⟩,
  ⟨0x0E100010, 0x0F100010, 0, 0, .core, coprocOf .mrc⟩,
  ⟨0x0F000000, 0x0F000000, 0, 0, .swi, swiOf .swi⟩]
/-- The table in scan order (R127). -/
def opcodeTable : List Row :=
  miscRows ++ multiplyRows ++ halfwordRows ++ msrImmRow ++ dpRows1 ++ dpRows2 ++ singleRows ++ blockRows ++
    branchRows

/-- A word matches a row when the identifying bits agree (R127). -/
def Row.matches (r : Row) (w : Word) : Bool := (w &&& r.mask) == r.value

/-- The row's should-be bits are as the row says (R156). -/
def Row.shouldBeOk (r : Row) (w : Word) : Bool := (w &&& r.sbMask) == r.sbValue

/-! ### The decoder -/

/-- What the decoder makes of a word: an instruction, or a rejection by name. -/
inductive Decoded where
  /-- Bits 31:28 are 0b1111 (R132, R152). -/
  | reservedCondition
  /-- No row matches (R131, R155). -/
  | noRow
  /-- A row of class `cls` matches, and a should-be field is wrong (R130, R156). -/
  | shouldBeField (cls : InstrClass)
  /-- The word is this instruction. -/
  | instr (i : Instr)
  deriving DecidableEq, Repr

/-- The decoder: total on words. The first matching row wins (R155). -/
def decode (w : Word) : Decoded :=
  if condField w == 0b1111#4 then .reservedCondition
  else match opcodeTable.find? (fun r => r.matches w) with
    | none => .noRow
    | some r => if r.shouldBeOk w then .instr (r.operands w) else .shouldBeField r.cls

/-- The word of four bytes, the first at the lowest address: little-endian (R62, R120). -/
def wordOfBytes (b0 b1 b2 b3 : Byte) : Word := b3 ++ b2 ++ b1 ++ b0

/-- The bytes of a word as memory holds them, lowest address first (R62). -/
def bytesOfWord (w : Word) : List Byte :=
  [w.extractLsb' 0 8, w.extractLsb' 8 8, w.extractLsb' 16 8, w.extractLsb' 24 8]

/-- The decoder on bytes: the first instruction and the bytes after it; none when fewer than four bytes are
left (R120: every instruction is one 32-bit word). -/
def decodeBytes : List Byte → Option (Decoded × List Byte)
  | b0 :: b1 :: b2 :: b3 :: rest => some (decode (wordOfBytes b0 b1 b2 b3), rest)
  | _ => none

/-- The instruction the decoder reads from an instruction word given as the number of its bits, with only the
low `nbits` of them set; none where the decoder rejects the word. -/
def decodeTableWord (nbits w : Nat) : Option Instr :=
  match decodeBytes (bytesOfWord (BitVec.ofNat 32 (w % 2 ^ nbits))) with
  | some (.instr i, _) => some i
  | _ => none

/-- The condition of an instruction (R121). -/
def Instr.cond : Instr → Cond
  | .mrs c _ _ => c
  | .msrReg c _ _ _ => c
  | .bx c _ => c
  | .blxReg c _ => c
  | .clz c _ _ => c
  | .bkpt c _ => c
  | .mul c _ _ _ _ => c
  | .mla c _ _ _ _ _ => c
  | .umull c _ _ _ _ _ => c
  | .umlal c _ _ _ _ _ => c
  | .smull c _ _ _ _ _ => c
  | .smlal c _ _ _ _ _ => c
  | .swp c _ _ _ => c
  | .swpb c _ _ _ => c
  | .strhImm c _ _ _ _ _ _ => c
  | .strhReg c _ _ _ _ _ _ => c
  | .ldrhImm c _ _ _ _ _ _ => c
  | .ldrhReg c _ _ _ _ _ _ => c
  | .ldrsbImm c _ _ _ _ _ _ => c
  | .ldrsbReg c _ _ _ _ _ _ => c
  | .ldrshImm c _ _ _ _ _ _ => c
  | .ldrshReg c _ _ _ _ _ _ => c
  | .msrImm c _ _ _ => c
  | .andImm c _ _ _ _ => c
  | .andRsi c _ _ _ _ => c
  | .andRsr c _ _ _ _ => c
  | .eorImm c _ _ _ _ => c
  | .eorRsi c _ _ _ _ => c
  | .eorRsr c _ _ _ _ => c
  | .subImm c _ _ _ _ => c
  | .subRsi c _ _ _ _ => c
  | .subRsr c _ _ _ _ => c
  | .rsbImm c _ _ _ _ => c
  | .rsbRsi c _ _ _ _ => c
  | .rsbRsr c _ _ _ _ => c
  | .addImm c _ _ _ _ => c
  | .addRsi c _ _ _ _ => c
  | .addRsr c _ _ _ _ => c
  | .adcImm c _ _ _ _ => c
  | .adcRsi c _ _ _ _ => c
  | .adcRsr c _ _ _ _ => c
  | .sbcImm c _ _ _ _ => c
  | .sbcRsi c _ _ _ _ => c
  | .sbcRsr c _ _ _ _ => c
  | .rscImm c _ _ _ _ => c
  | .rscRsi c _ _ _ _ => c
  | .rscRsr c _ _ _ _ => c
  | .tstImm c _ _ => c
  | .tstRsi c _ _ => c
  | .tstRsr c _ _ => c
  | .teqImm c _ _ => c
  | .teqRsi c _ _ => c
  | .teqRsr c _ _ => c
  | .cmpImm c _ _ => c
  | .cmpRsi c _ _ => c
  | .cmpRsr c _ _ => c
  | .cmnImm c _ _ => c
  | .cmnRsi c _ _ => c
  | .cmnRsr c _ _ => c
  | .orrImm c _ _ _ _ => c
  | .orrRsi c _ _ _ _ => c
  | .orrRsr c _ _ _ _ => c
  | .movImm c _ _ _ => c
  | .movRsi c _ _ _ => c
  | .movRsr c _ _ _ => c
  | .bicImm c _ _ _ _ => c
  | .bicRsi c _ _ _ _ => c
  | .bicRsr c _ _ _ _ => c
  | .mvnImm c _ _ _ => c
  | .mvnRsi c _ _ _ => c
  | .mvnRsr c _ _ _ => c
  | .strImmPre c _ _ _ _ _ => c
  | .strImmPost c _ _ _ _ => c
  | .strtImm c _ _ _ _ => c
  | .strRegPre c _ _ _ _ _ => c
  | .strRegPost c _ _ _ _ => c
  | .strtReg c _ _ _ _ => c
  | .ldrImmPre c _ _ _ _ _ => c
  | .ldrImmPost c _ _ _ _ => c
  | .ldrtImm c _ _ _ _ => c
  | .ldrRegPre c _ _ _ _ _ => c
  | .ldrRegPost c _ _ _ _ => c
  | .ldrtReg c _ _ _ _ => c
  | .strbImmPre c _ _ _ _ _ => c
  | .strbImmPost c _ _ _ _ => c
  | .strbtImm c _ _ _ _ => c
  | .strbRegPre c _ _ _ _ _ => c
  | .strbRegPost c _ _ _ _ => c
  | .strbtReg c _ _ _ _ => c
  | .ldrbImmPre c _ _ _ _ _ => c
  | .ldrbImmPost c _ _ _ _ => c
  | .ldrbtImm c _ _ _ _ => c
  | .ldrbRegPre c _ _ _ _ _ => c
  | .ldrbRegPost c _ _ _ _ => c
  | .ldrbtReg c _ _ _ _ => c
  | .stm1 c _ _ _ _ _ => c
  | .stm2 c _ _ _ _ _ => c
  | .ldm1 c _ _ _ _ _ => c
  | .ldm2 c _ _ _ _ _ => c
  | .ldm3 c _ _ _ _ _ => c
  | .b c _ => c
  | .bl c _ => c
  | .mcr c _ _ _ _ _ _ => c
  | .mrc c _ _ _ _ _ _ => c
  | .swi c _ => c

/-- The class of an instruction's row (R157). -/
def Instr.cls : Instr → InstrClass
  | .mrs .. | .msrReg .. | .bx .. | .strhImm .. | .strhReg .. | .ldrhImm .. | .ldrhReg .. | .ldrsbImm ..
  | .ldrsbReg .. | .ldrshImm .. | .ldrshReg .. | .msrImm .. | .andImm .. | .andRsi .. | .andRsr ..
  | .eorImm .. | .eorRsi .. | .eorRsr .. | .subImm .. | .subRsi .. | .subRsr .. | .rsbImm .. | .rsbRsi ..
  | .rsbRsr .. | .addImm .. | .addRsi .. | .addRsr .. | .adcImm .. | .adcRsi .. | .adcRsr .. | .tstImm ..
  | .tstRsi .. | .tstRsr .. | .teqImm .. | .teqRsi .. | .teqRsr .. | .cmpImm .. | .cmpRsi .. | .cmpRsr ..
  | .cmnImm .. | .cmnRsi .. | .cmnRsr .. | .orrImm .. | .orrRsi .. | .orrRsr .. | .movImm .. | .movRsi ..
  | .movRsr .. | .bicImm .. | .bicRsi .. | .bicRsr .. | .mvnImm .. | .mvnRsi .. | .mvnRsr .. | .strImmPre ..
  | .strImmPost .. | .strRegPre .. | .strRegPost .. | .ldrImmPre .. | .ldrImmPost .. | .ldrRegPre ..
  | .ldrRegPost .. | .strbImmPre .. | .strbImmPost .. | .strbRegPre .. | .strbRegPost .. | .ldrbImmPre ..
  | .ldrbImmPost .. | .ldrbRegPre .. | .ldrbRegPost .. | .stm1 .. | .stm2 .. | .ldm1 .. | .ldm2 .. | .ldm3 ..
  | .b .. | .bl .. | .mcr .. | .mrc .. => .core
  | .sbcImm .. | .sbcRsi .. | .sbcRsr .. | .rscImm .. | .rscRsi .. | .rscRsr .. => .sbcRsc
  | .mul .. | .mla .. => .mul
  | .umull .. | .umlal .. | .smull .. | .smlal .. => .mull
  | .clz .. => .clz
  | .swp .. | .swpb .. => .swp
  | .strtImm .. | .strtReg .. | .ldrtImm .. | .ldrtReg .. | .strbtImm .. | .strbtReg .. | .ldrbtImm ..
  | .ldrbtReg .. => .ldrtStrt
  | .blxReg .. => .blxReg
  | .swi .. => .swi
  | .bkpt .. => .bkpt
/-! ### The encoder -/

/-- A field at its place in a word. -/
def fieldAt {n : Nat} (lo : Nat) (v : BitVec n) : Word := v.setWidth 32 <<< lo

/-- A single-bit field. -/
def bitAt (lo : Nat) (b : Bool) : Word := fieldAt lo (BitVec.ofBool b)

/-- A register field. -/
def regField (lo : Nat) (r : Reg) : Word := fieldAt lo r.bits

/-- The condition field. -/
def condBits (c : Cond) : Word := fieldAt 28 c.bits

def ImmOp.word (o : ImmOp) : Word := fieldAt 8 o.rot ||| fieldAt 0 o.imm

def RsiOp.word (o : RsiOp) : Word := fieldAt 7 o.amount ||| fieldAt 5 o.shift.bits ||| regField 0 o.rm

def RsrOp.word (o : RsrOp) : Word := regField 8 o.rs ||| fieldAt 5 o.shift.bits ||| regField 0 o.rm

/-- The P, U and W bits. -/
def puwWord (p u w : Bool) : Word := bitAt 24 p ||| bitAt 23 u ||| bitAt 21 w

def dpImmWord (m : Word) (c : Cond) (f : Bool) (rn rd : Reg) (op : ImmOp) : Word :=
  m ||| condBits c ||| bitAt 20 f ||| regField 16 rn ||| regField 12 rd ||| op.word

def dpRsiWord (m : Word) (c : Cond) (f : Bool) (rn rd : Reg) (op : RsiOp) : Word :=
  m ||| condBits c ||| bitAt 20 f ||| regField 16 rn ||| regField 12 rd ||| op.word

def dpRsrWord (m : Word) (c : Cond) (f : Bool) (rn rd : Reg) (op : RsrOp) : Word :=
  m ||| condBits c ||| bitAt 20 f ||| regField 16 rn ||| regField 12 rd ||| op.word

def movImmWord (m : Word) (c : Cond) (f : Bool) (rd : Reg) (op : ImmOp) : Word :=
  m ||| condBits c ||| bitAt 20 f ||| regField 12 rd ||| op.word

def movRsiWord (m : Word) (c : Cond) (f : Bool) (rd : Reg) (op : RsiOp) : Word :=
  m ||| condBits c ||| bitAt 20 f ||| regField 12 rd ||| op.word

def movRsrWord (m : Word) (c : Cond) (f : Bool) (rd : Reg) (op : RsrOp) : Word :=
  m ||| condBits c ||| bitAt 20 f ||| regField 12 rd ||| op.word

def cmpImmWord (m : Word) (c : Cond) (rn : Reg) (op : ImmOp) : Word :=
  m ||| condBits c ||| regField 16 rn ||| op.word

def cmpRsiWord (m : Word) (c : Cond) (rn : Reg) (op : RsiOp) : Word :=
  m ||| condBits c ||| regField 16 rn ||| op.word

def cmpRsrWord (m : Word) (c : Cond) (rn : Reg) (op : RsrOp) : Word :=
  m ||| condBits c ||| regField 16 rn ||| op.word

def mulWord (m : Word) (c : Cond) (f : Bool) (rd rs rm : Reg) : Word :=
  m ||| condBits c ||| bitAt 20 f ||| regField 16 rd ||| regField 8 rs ||| regField 0 rm

def mlaWord (m : Word) (c : Cond) (f : Bool) (rd rn rs rm : Reg) : Word :=
  m ||| condBits c ||| bitAt 20 f ||| regField 16 rd ||| regField 12 rn ||| regField 8 rs ||| regField 0 rm

def mullWord (m : Word) (c : Cond) (f : Bool) (rdHi rdLo rs rm : Reg) : Word :=
  m ||| condBits c ||| bitAt 20 f ||| regField 16 rdHi ||| regField 12 rdLo ||| regField 8 rs ||| regField 0 rm

def clzWord (m : Word) (c : Cond) (rd rm : Reg) : Word := m ||| condBits c ||| regField 12 rd ||| regField 0 rm

def bxWord (m : Word) (c : Cond) (rm : Reg) : Word := m ||| condBits c ||| regField 0 rm

def bkptWord (m : Word) (c : Cond) (imm : BitVec 16) : Word :=
  m ||| condBits c ||| fieldAt 8 (imm.extractLsb' 4 12) ||| fieldAt 0 (imm.extractLsb' 0 4)

def swpWord (m : Word) (c : Cond) (rn rd rm : Reg) : Word :=
  m ||| condBits c ||| regField 16 rn ||| regField 12 rd ||| regField 0 rm

def mrsWord (m : Word) (c : Cond) (r : Bool) (rd : Reg) : Word :=
  m ||| condBits c ||| bitAt 22 r ||| regField 12 rd

def msrImmWord (m : Word) (c : Cond) (r : Bool) (mask : BitVec 4) (op : ImmOp) : Word :=
  m ||| condBits c ||| bitAt 22 r ||| fieldAt 16 mask ||| op.word

def msrRegWord (m : Word) (c : Cond) (r : Bool) (mask : BitVec 4) (rm : Reg) : Word :=
  m ||| condBits c ||| bitAt 22 r ||| fieldAt 16 mask ||| regField 0 rm

def lsImmPreWord (m : Word) (c : Cond) (u w : Bool) (rn rd : Reg) (off : BitVec 12) : Word :=
  m ||| condBits c ||| bitAt 23 u ||| bitAt 21 w ||| regField 16 rn ||| regField 12 rd ||| fieldAt 0 off

def lsImmPostWord (m : Word) (c : Cond) (u : Bool) (rn rd : Reg) (off : BitVec 12) : Word :=
  m ||| condBits c ||| bitAt 23 u ||| regField 16 rn ||| regField 12 rd ||| fieldAt 0 off

def lsRegPreWord (m : Word) (c : Cond) (u w : Bool) (rn rd : Reg) (op : RsiOp) : Word :=
  m ||| condBits c ||| bitAt 23 u ||| bitAt 21 w ||| regField 16 rn ||| regField 12 rd ||| op.word

def lsRegPostWord (m : Word) (c : Cond) (u : Bool) (rn rd : Reg) (op : RsiOp) : Word :=
  m ||| condBits c ||| bitAt 23 u ||| regField 16 rn ||| regField 12 rd ||| op.word

def halfImmWord (m : Word) (c : Cond) (p u w : Bool) (rn rd : Reg) (off : BitVec 8) : Word :=
  m ||| condBits c ||| puwWord p u w ||| regField 16 rn ||| regField 12 rd |||
    fieldAt 8 (off.extractLsb' 4 4) ||| fieldAt 0 (off.extractLsb' 0 4)

def halfRegWord (m : Word) (c : Cond) (p u w : Bool) (rn rd rm : Reg) : Word :=
  m ||| condBits c ||| puwWord p u w ||| regField 16 rn ||| regField 12 rd ||| regField 0 rm

def block16Word (m : Word) (c : Cond) (p u w : Bool) (rn : Reg) (list : BitVec 16) : Word :=
  m ||| condBits c ||| puwWord p u w ||| regField 16 rn ||| fieldAt 0 list

def block15Word (m : Word) (c : Cond) (p u w : Bool) (rn : Reg) (list : BitVec 15) : Word :=
  m ||| condBits c ||| puwWord p u w ||| regField 16 rn ||| fieldAt 0 list

def branchWord (m : Word) (c : Cond) (off : BitVec 24) : Word := m ||| condBits c ||| fieldAt 0 off

def coprocWord (m : Word) (c : Cond) (op1 : BitVec 3) (crn : BitVec 4) (rd : Reg) (cp : BitVec 4)
    (op2 : BitVec 3) (crm : BitVec 4) : Word :=
  m ||| condBits c ||| fieldAt 21 op1 ||| fieldAt 16 crn ||| regField 12 rd ||| fieldAt 8 cp ||| fieldAt 5 op2 |||
    fieldAt 0 crm

def swiWord (m : Word) (c : Cond) (imm : BitVec 24) : Word := m ||| condBits c ||| fieldAt 0 imm

/-- The word of an instruction: its row's match bits and should-be bits, and its fields (R122, R128). -/
def encode : Instr → Word
  | .mrs c r rd => mrsWord (0x01000000 ||| 0x000F0000) c r rd
  | .msrReg c r mask rm => msrRegWord (0x01200000 ||| 0x0000F000) c r mask rm
  | .bx c rm => bxWord (0x01200010 ||| 0x000FFF00) c rm
  | .blxReg c rm => bxWord (0x01200030 ||| 0x000FFF00) c rm
  | .clz c rd rm => clzWord (0x01600010 ||| 0x000F0F00) c rd rm
  | .bkpt c imm => bkptWord 0x01200070 c imm
  | .mul c f rd rs rm => mulWord 0x00000090 c f rd rs rm
  | .mla c f rd rn rs rm => mlaWord 0x00200090 c f rd rn rs rm
  | .umull c f rdHi rdLo rs rm => mullWord 0x00800090 c f rdHi rdLo rs rm
  | .umlal c f rdHi rdLo rs rm => mullWord 0x00A00090 c f rdHi rdLo rs rm
  | .smull c f rdHi rdLo rs rm => mullWord 0x00C00090 c f rdHi rdLo rs rm
  | .smlal c f rdHi rdLo rs rm => mullWord 0x00E00090 c f rdHi rdLo rs rm
  | .swp c rn rd rm => swpWord 0x01000090 c rn rd rm
  | .swpb c rn rd rm => swpWord 0x01400090 c rn rd rm
  | .strhImm c p u w rn rd off => halfImmWord 0x004000B0 c p u w rn rd off
  | .strhReg c p u w rn rd rm => halfRegWord 0x000000B0 c p u w rn rd rm
  | .ldrhImm c p u w rn rd off => halfImmWord 0x005000B0 c p u w rn rd off
  | .ldrhReg c p u w rn rd rm => halfRegWord 0x001000B0 c p u w rn rd rm
  | .ldrsbImm c p u w rn rd off => halfImmWord 0x005000D0 c p u w rn rd off
  | .ldrsbReg c p u w rn rd rm => halfRegWord 0x001000D0 c p u w rn rd rm
  | .ldrshImm c p u w rn rd off => halfImmWord 0x005000F0 c p u w rn rd off
  | .ldrshReg c p u w rn rd rm => halfRegWord 0x001000F0 c p u w rn rd rm
  | .msrImm c r mask op => msrImmWord (0x03200000 ||| 0x0000F000) c r mask op
  | .andImm c f rn rd op => dpImmWord 0x02000000 c f rn rd op
  | .andRsi c f rn rd op => dpRsiWord 0x00000000 c f rn rd op
  | .andRsr c f rn rd op => dpRsrWord 0x00000010 c f rn rd op
  | .eorImm c f rn rd op => dpImmWord 0x02200000 c f rn rd op
  | .eorRsi c f rn rd op => dpRsiWord 0x00200000 c f rn rd op
  | .eorRsr c f rn rd op => dpRsrWord 0x00200010 c f rn rd op
  | .subImm c f rn rd op => dpImmWord 0x02400000 c f rn rd op
  | .subRsi c f rn rd op => dpRsiWord 0x00400000 c f rn rd op
  | .subRsr c f rn rd op => dpRsrWord 0x00400010 c f rn rd op
  | .rsbImm c f rn rd op => dpImmWord 0x02600000 c f rn rd op
  | .rsbRsi c f rn rd op => dpRsiWord 0x00600000 c f rn rd op
  | .rsbRsr c f rn rd op => dpRsrWord 0x00600010 c f rn rd op
  | .addImm c f rn rd op => dpImmWord 0x02800000 c f rn rd op
  | .addRsi c f rn rd op => dpRsiWord 0x00800000 c f rn rd op
  | .addRsr c f rn rd op => dpRsrWord 0x00800010 c f rn rd op
  | .adcImm c f rn rd op => dpImmWord 0x02A00000 c f rn rd op
  | .adcRsi c f rn rd op => dpRsiWord 0x00A00000 c f rn rd op
  | .adcRsr c f rn rd op => dpRsrWord 0x00A00010 c f rn rd op
  | .sbcImm c f rn rd op => dpImmWord 0x02C00000 c f rn rd op
  | .sbcRsi c f rn rd op => dpRsiWord 0x00C00000 c f rn rd op
  | .sbcRsr c f rn rd op => dpRsrWord 0x00C00010 c f rn rd op
  | .rscImm c f rn rd op => dpImmWord 0x02E00000 c f rn rd op
  | .rscRsi c f rn rd op => dpRsiWord 0x00E00000 c f rn rd op
  | .rscRsr c f rn rd op => dpRsrWord 0x00E00010 c f rn rd op
  | .tstImm c rn op => cmpImmWord 0x03100000 c rn op
  | .tstRsi c rn op => cmpRsiWord 0x01100000 c rn op
  | .tstRsr c rn op => cmpRsrWord 0x01100010 c rn op
  | .teqImm c rn op => cmpImmWord 0x03300000 c rn op
  | .teqRsi c rn op => cmpRsiWord 0x01300000 c rn op
  | .teqRsr c rn op => cmpRsrWord 0x01300010 c rn op
  | .cmpImm c rn op => cmpImmWord 0x03500000 c rn op
  | .cmpRsi c rn op => cmpRsiWord 0x01500000 c rn op
  | .cmpRsr c rn op => cmpRsrWord 0x01500010 c rn op
  | .cmnImm c rn op => cmpImmWord 0x03700000 c rn op
  | .cmnRsi c rn op => cmpRsiWord 0x01700000 c rn op
  | .cmnRsr c rn op => cmpRsrWord 0x01700010 c rn op
  | .orrImm c f rn rd op => dpImmWord 0x03800000 c f rn rd op
  | .orrRsi c f rn rd op => dpRsiWord 0x01800000 c f rn rd op
  | .orrRsr c f rn rd op => dpRsrWord 0x01800010 c f rn rd op
  | .movImm c f rd op => movImmWord 0x03A00000 c f rd op
  | .movRsi c f rd op => movRsiWord 0x01A00000 c f rd op
  | .movRsr c f rd op => movRsrWord 0x01A00010 c f rd op
  | .bicImm c f rn rd op => dpImmWord 0x03C00000 c f rn rd op
  | .bicRsi c f rn rd op => dpRsiWord 0x01C00000 c f rn rd op
  | .bicRsr c f rn rd op => dpRsrWord 0x01C00010 c f rn rd op
  | .mvnImm c f rd op => movImmWord 0x03E00000 c f rd op
  | .mvnRsi c f rd op => movRsiWord 0x01E00000 c f rd op
  | .mvnRsr c f rd op => movRsrWord 0x01E00010 c f rd op
  | .strImmPre c u w rn rd off => lsImmPreWord 0x05000000 c u w rn rd off
  | .strImmPost c u rn rd off => lsImmPostWord 0x04000000 c u rn rd off
  | .strtImm c u rn rd off => lsImmPostWord 0x04200000 c u rn rd off
  | .strRegPre c u w rn rd op => lsRegPreWord 0x07000000 c u w rn rd op
  | .strRegPost c u rn rd op => lsRegPostWord 0x06000000 c u rn rd op
  | .strtReg c u rn rd op => lsRegPostWord 0x06200000 c u rn rd op
  | .ldrImmPre c u w rn rd off => lsImmPreWord 0x05100000 c u w rn rd off
  | .ldrImmPost c u rn rd off => lsImmPostWord 0x04100000 c u rn rd off
  | .ldrtImm c u rn rd off => lsImmPostWord 0x04300000 c u rn rd off
  | .ldrRegPre c u w rn rd op => lsRegPreWord 0x07100000 c u w rn rd op
  | .ldrRegPost c u rn rd op => lsRegPostWord 0x06100000 c u rn rd op
  | .ldrtReg c u rn rd op => lsRegPostWord 0x06300000 c u rn rd op
  | .strbImmPre c u w rn rd off => lsImmPreWord 0x05400000 c u w rn rd off
  | .strbImmPost c u rn rd off => lsImmPostWord 0x04400000 c u rn rd off
  | .strbtImm c u rn rd off => lsImmPostWord 0x04600000 c u rn rd off
  | .strbRegPre c u w rn rd op => lsRegPreWord 0x07400000 c u w rn rd op
  | .strbRegPost c u rn rd op => lsRegPostWord 0x06400000 c u rn rd op
  | .strbtReg c u rn rd op => lsRegPostWord 0x06600000 c u rn rd op
  | .ldrbImmPre c u w rn rd off => lsImmPreWord 0x05500000 c u w rn rd off
  | .ldrbImmPost c u rn rd off => lsImmPostWord 0x04500000 c u rn rd off
  | .ldrbtImm c u rn rd off => lsImmPostWord 0x04700000 c u rn rd off
  | .ldrbRegPre c u w rn rd op => lsRegPreWord 0x07500000 c u w rn rd op
  | .ldrbRegPost c u rn rd op => lsRegPostWord 0x06500000 c u rn rd op
  | .ldrbtReg c u rn rd op => lsRegPostWord 0x06700000 c u rn rd op
  | .stm1 c p u w rn list => block16Word 0x08000000 c p u w rn list
  | .stm2 c p u w rn list => block16Word 0x08400000 c p u w rn list
  | .ldm1 c p u w rn list => block16Word 0x08100000 c p u w rn list
  | .ldm2 c p u w rn list => block15Word 0x08500000 c p u w rn list
  | .ldm3 c p u w rn list => block15Word 0x08508000 c p u w rn list
  | .b c off => branchWord 0x0A000000 c off
  | .bl c off => branchWord 0x0B000000 c off
  | .mcr c op1 crn rd cp op2 crm => coprocWord 0x0E000010 c op1 crn rd cp op2 crm
  | .mrc c op1 crn rd cp op2 crm => coprocWord 0x0E100010 c op1 crn rd cp op2 crm
  | .swi c imm => swiWord 0x0F000000 c imm

end Sys2Proof
end

