-- ==== Sys2Proof/Machine/State.lean ====
section
/-! DEFINITION. The state of the core as plain data: everything 10_state.md gives it, the stop record included;
the reasons a tick stops (60_exceptions.md R332, R335); and the state after reset (R48, R360). -/

namespace Sys2Proof.Machine

/-! ### Accesses and the reasons of a stop -/

/-- The kind of an access (20_memory.md R67, R92). -/
inductive Access where
  | read | write | execute
  deriving DecidableEq, Repr

/-- The level of a translation or of a check: a section, or a page (R84, R89). -/
inductive Level where
  | sect | page
  deriving DecidableEq, Repr

/-- The reasons of a ProtocolViolation (60_exceptions.md R335). -/
inductive ProtocolReason where
  | noSpsr | reservedStatusBits | coprocessorUnhandled
  deriving DecidableEq, Repr

/-- A hardware fault with its fields (R332). -/
inductive FaultRecord where
  | undefinedInstruction (word addr : Word)
  | reservedCondition (word addr : Word)
  | translation (level : Level) (va : Word) (acc : Access)
  | domain (va : Word) (acc : Access) (domain : BitVec 4) (level : Level)
  | permission (va : Word) (acc : Access) (domain : BitVec 4) (ap : BitVec 2) (level : Level)
  | alignment (addr : Word) (width : Nat) (acc : Access)
  | protocolViolation (reason : ProtocolReason)
  deriving DecidableEq, Repr

/-- The reason of a refusal: a form whose meaning the spec does not settle (R13, R335). -/
inductive RefusalReason where
  | shouldBeField | unpredictable | badSpsrRestore | badStatusValue | userControlWrite | thumbUnsupported
  | bigEndianUnsupported | userModeCP15 | apSR11 | subWordPeripheral
  deriving DecidableEq, Repr

/-- The stop record (10_state.md R46, 60_exceptions.md R331): `running`, or why the core stopped and the raw
address of the instruction whose tick stopped. -/
inductive StopRecord where
  | running
  | fault (record : FaultRecord) (addr : Word)
  | refusal (reason : RefusalReason) (addr : Word)
  deriving DecidableEq, Repr

/-! ### Registers -/

/-- The thirty general-register cells other than the PC (10_state.md R22). -/
inductive Cell where
  | r0 | r1 | r2 | r3 | r4 | r5 | r6 | r7
  | r8_usr | r9_usr | r10_usr | r11_usr | r12_usr
  | r8_fiq | r9_fiq | r10_fiq | r11_fiq | r12_fiq
  | r13_usr | r13_fiq | r13_irq | r13_svc | r13_abt | r13_und
  | r14_usr | r14_fiq | r14_irq | r14_svc | r14_abt | r14_und
  deriving DecidableEq, Repr

/-- The contents of the general-register cells (R20, R22). -/
structure Regs where
  r0 : Word
  r1 : Word
  r2 : Word
  r3 : Word
  r4 : Word
  r5 : Word
  r6 : Word
  r7 : Word
  r8_usr : Word
  r9_usr : Word
  r10_usr : Word
  r11_usr : Word
  r12_usr : Word
  r8_fiq : Word
  r9_fiq : Word
  r10_fiq : Word
  r11_fiq : Word
  r12_fiq : Word
  r13_usr : Word
  r13_fiq : Word
  r13_irq : Word
  r13_svc : Word
  r13_abt : Word
  r13_und : Word
  r14_usr : Word
  r14_fiq : Word
  r14_irq : Word
  r14_svc : Word
  r14_abt : Word
  r14_und : Word
  deriving DecidableEq, Repr

/-- The five saved status registers (R34). -/
inductive SpsrCell where
  | fiq | irq | svc | abt | und
  deriving DecidableEq, Repr

/-- The contents of the saved status registers, each with the CPSR layout (R28, R34). -/
structure Spsrs where
  fiq : Word
  irq : Word
  svc : Word
  abt : Word
  und : Word
  deriving DecidableEq, Repr

/-- The CP15 registers (R37 to R43); Main ID and Cache Type are read-only. -/
structure Cp15 where
  mainId : Word
  cacheType : Word
  control : Word
  ttb : Word
  dacr : Word
  deriving DecidableEq, Repr

/-! ### Memory and devices -/

/-- Physical memory (20_memory.md R61): the bytes that differ from `Config.unlistedByte`, by rising address. -/
abbrev Memory := List Host.Cell

/-- An access of a device (R65): `dev` is its place in PERIPHERALS. -/
inductive DevEvent where
  | read (dev : Nat) (offset : Word)
  | write (dev : Nat) (offset value : Word)
  deriving DecidableEq, Repr

/-! ### The state -/

/-- The state of the core. `draws` is the model's own: it numbers the device answers (log 5). -/
structure State where
  /-- The general-register cells (R22). -/
  regs : Regs
  /-- The raw PC (R26, R27). -/
  pc : Word
  /-- The current program status register (R28). -/
  cpsr : Word
  /-- The saved status registers (R34). -/
  spsr : Spsrs
  /-- The system-control coprocessor (R37). -/
  cp15 : Cp15
  /-- Physical memory (R61). -/
  mem : Memory
  /-- The stop record (R46). -/
  stop : StopRecord
  /-- The OPEN parameters of the machine (00_scope.md R9): no step changes them. -/
  params : Params
  /-- The device accesses made so far, oldest first (R65). -/
  devLog : List DevEvent
  /-- How many device answers were read so far. -/
  draws : Nat
  deriving DecidableEq, Repr

/-! ### The outcomes of a tick that stops -/

/-- A hardware fault (60_exceptions.md R330, R332): fatal, never delivered to the program. `left` is the state the
stopped core is left in (40_dispatch.md R163): the effects made before the fault, the raw PC at the instruction,
the stop record set. The spec gives every one of them, so each is as the hardware (safe); only the choice to
report it as an outcome beside the state is the model's (log 6). -/
inductive Fault where
  /-- The tick: a passing word matches no row, or a row of an absent class (R155, R157). Safe. -/
  | undefinedInstruction (word addr : Word) (left : State)
  /-- The tick: condition field 0b1111 (R152). Safe. -/
  | reservedCondition (word addr : Word) (left : State)
  /-- Translate: a first- or second-level descriptor of type 0 (R83, R88). Safe. -/
  | translation (level : Level) (va : Word) (acc : Access) (left : State)
  /-- Translate: the domain's DACR field is 0 or 2 (R90). Safe. -/
  | domain (va : Word) (acc : Access) (domain : BitVec 4) (level : Level) (left : State)
  /-- Translate: the access kind is not in the AP mask (R93). Safe. -/
  | permission (va : Word) (acc : Access) (domain : BitVec 4) (ap : BitVec 2) (level : Level) (left : State)
  /-- A misaligned fetch or data access (R63, R68 to R71). Safe. -/
  | alignment (addr : Word) (width : Nat) (acc : Access) (left : State)
  /-- An SPSR access in usr or sys, a reserved status bit written, an unhandled coprocessor access (R335). Safe. -/
  | protocolViolation (reason : ProtocolReason) (left : State)
  deriving DecidableEq, Repr

/-- A refusal: the outcome the spec names for a form whose meaning it does not settle (00_scope.md R13,
60_exceptions.md R335). All are safe: the run stops. `left` is as for `Fault`. -/
inductive Refusal where
  /-- exec: an instruction that has no meaning yet; no arm of this model answers it. -/
  | notModelled (mnemonic : String)
  /-- The tick: a should-be field is wrong (R156); BKPT with a passing condition other than AL (R340). Safe. -/
  | shouldBeField (left : State)
  /-- The register and field restrictions of files 41 to 47 (D13, D34). Safe. -/
  | unpredictable (left : State)
  /-- An SPSR restore of T = 1 or an invalid mode (R183, R295). Safe. -/
  | badSpsrRestore (left : State)
  /-- An MSR that would store T = 1 or an invalid mode (R233, R234). Safe. -/
  | badStatusValue (left : State)
  /-- An MSR of the CPSR control byte in usr mode (R233). Safe. -/
  | userControlWrite (left : State)
  /-- BX or BLX to an odd address (R243). Safe. -/
  | thumbUnsupported (left : State)
  /-- An MCR that sets Control.B (R41). Safe. -/
  | bigEndianUnsupported (left : State)
  /-- MCR or MRC to CP15 in usr mode (R315). Safe. -/
  | userModeCP15 (left : State)
  /-- Translate: AP = 0b00 with S = R = 1 (R91). Safe. -/
  | apSR11 (left : State)
  /-- A 1- or 2-byte access of a device (R65). Safe. -/
  | subWordPeripheral (left : State)
  deriving DecidableEq, Repr

/-! ### Reset -/

/-- What a reset takes from outside the core: the OPEN parameters of 00_scope.md R9. -/
structure Launch where
  /-- ENTRY_PC (D22). -/
  entryPc : Word
  /-- CP15_CONTROL_RESET (D19). -/
  controlReset : Word
  /-- CP15_MAIN_ID (D18). -/
  mainId : Word
  /-- CP15_CACHE_TYPE (D18). -/
  cacheType : Word
  /-- INIT_REGS (D21): the general registers of every bank. -/
  regs : Regs
  /-- INIT_REGS: the SPSRs. -/
  spsr : Spsrs
  /-- INIT_REGS: TTB. -/
  ttb : Word
  /-- INIT_REGS: DACR. -/
  dacr : Word
  /-- INIT_MEM: the loaded image (D33). -/
  mem : Memory
  /-- IMPLEMENTED_EXTRA and PERIPHERALS (D2, D10). -/
  params : Params
  deriving DecidableEq, Repr

/-- `reset(entry_pc)` (00_scope.md R6, 10_state.md R48, 70_reset_and_hazards.md R360) for a launch. -/
def State.resetWith (l : Launch) : State where
  regs := l.regs
  pc := l.entryPc
  cpsr := 0x000000D3
  spsr := l.spsr
  cp15 := { mainId := l.mainId, cacheType := l.cacheType, control := l.controlReset, ttb := l.ttb, dacr := l.dacr }
  mem := l.mem
  stop := .running
  params := l.params
  devLog := []
  draws := 0

/-- Every general-register cell zero: the draw of INIT_REGS that 95_test_vectors.md takes. -/
def Regs.zero : Regs where
  r0 := 0
  r1 := 0
  r2 := 0
  r3 := 0
  r4 := 0
  r5 := 0
  r6 := 0
  r7 := 0
  r8_usr := 0
  r9_usr := 0
  r10_usr := 0
  r11_usr := 0
  r12_usr := 0
  r8_fiq := 0
  r9_fiq := 0
  r10_fiq := 0
  r11_fiq := 0
  r12_fiq := 0
  r13_usr := 0
  r13_fiq := 0
  r13_irq := 0
  r13_svc := 0
  r13_abt := 0
  r13_und := 0
  r14_usr := 0
  r14_fiq := 0
  r14_irq := 0
  r14_svc := 0
  r14_abt := 0
  r14_und := 0

/-- The launch of `State.reset`: nothing loaded, no device, every class of instructions implemented, and the
draws that 95_test_vectors.md's conventions take. DESIGN CHOICE (logs 1, 3, 4), unsafe: the spec leaves all of
these open. -/
def Launch.standard : Launch where
  entryPc := 0x00001000
  controlReset := 0
  mainId := 0
  cacheType := 0
  regs := .zero
  spsr := { fiq := 0x10, irq := 0x10, svc := 0x10, abt := 0x10, und := 0x10 }
  ttb := 0
  dacr := 0
  mem := []
  params :=
    { extra := { sbcRsc := true, mul := true, mull := true, clz := true, swp := true, ldrtStrt := true,
                 blxReg := true, swi := true, bkpt := true }
      peripherals := [] }

/-- The machine right after reset (R48, R360). -/
def State.reset : State := State.resetWith .standard

end Sys2Proof.Machine
end

