-- ==== Sys2Proof/Machine/Memory.lean ====
section
/-! DEFINITION. Physical memory as a byte store (20_memory.md R60 to R64): reading and writing one byte, and the
little-endian accesses of 1, 2 and 4 bytes built from them. -/

namespace Sys2Proof.Machine

/-- The canonical form: addresses strictly rising, each below 2^32 (R60), no byte equal to what an unlisted
address reads as. Equal memories are then equal lists. -/
abbrev Memory.wf (m : Memory) : Prop :=
  m.Pairwise (fun x y => x.1 < y.1) ∧ ∀ c ∈ m, c.1 < 2 ^ 32 ∧ c.2 ≠ Config.unlistedByte

/-- The byte at a physical address (R61). -/
def Memory.read : Memory → Nat → Byte
  | [], _ => Config.unlistedByte
  | c :: m, a => if a = c.1 then c.2 else Memory.read m a

/-- A byte in front of the bytes of higher addresses, left out when it is what an unlisted address reads as. -/
def Memory.push (a : Nat) (b : Byte) (m : Memory) : Memory := if b = Config.unlistedByte then m else (a, b) :: m

/-- Writing the byte at a physical address (R61), keeping the canonical form. -/
def Memory.write : Memory → Nat → Byte → Memory
  | [], a, b => Memory.push a b []
  | c :: m, a, b =>
    if a < c.1 then Memory.push a b (c :: m)
    else if a = c.1 then Memory.push a b m
    else c :: Memory.write m a b

/-- The width of an access (R72). -/
inductive Width where
  | byte | half | word
  deriving DecidableEq, Repr

/-- The number of bytes of an access. -/
def Width.bytes : Width → Nat
  | .byte => 1
  | .half => 2
  | .word => 4

/-- The byte at a physical address given as a word. -/
def Memory.byteAt (m : Memory) (pa : Word) : Byte := m.read pa.toNat

/-- `PhysRead` of the memory store (R62): little-endian, zero-extended to a word. -/
def Memory.load (m : Memory) (pa : Word) : Width → Word
  | .byte => (m.byteAt pa).setWidth 32
  | .half => (m.byteAt (pa + 1) ++ m.byteAt pa).setWidth 32
  | .word => m.byteAt (pa + 3) ++ m.byteAt (pa + 2) ++ m.byteAt (pa + 1) ++ m.byteAt pa

/-- Byte k of a word, byte 0 the least significant. -/
def byteOf (v : Word) (k : Nat) : Byte := v.extractLsb' (8 * k) 8

/-- Writing one byte at a physical address given as a word. -/
def Memory.setByte (m : Memory) (pa : Word) (b : Byte) : Memory := m.write pa.toNat b

/-- `PhysWrite` of the memory store (R62, R67): the low bytes of v, the lowest at pa. -/
def Memory.store (m : Memory) (pa : Word) (v : Word) : Width → Memory
  | .byte => m.setByte pa (byteOf v 0)
  | .half => (m.setByte pa (byteOf v 0)).setByte (pa + 1) (byteOf v 1)
  | .word =>
    (((m.setByte pa (byteOf v 0)).setByte (pa + 1) (byteOf v 1)).setByte (pa + 2) (byteOf v 2)).setByte (pa + 3)
      (byteOf v 3)

/-- The address is not a multiple of the width (R63, R68). -/
def misaligned (a : Word) : Width → Bool
  | .byte => false
  | .half => a.extractLsb' 0 1 != 0
  | .word => a.extractLsb' 0 2 != 0

end Sys2Proof.Machine
end

