-- ==== Sys2Proof/Machine/Ops.lean ====
section
/-! DEFINITION. The shared operations on the state: how a tick stops, the status-register fields, the banked
registers, the PC, the saved status registers, taking an exception and returning from one. -/

namespace Sys2Proof.Machine

/-! ### Outcomes -/

/-- What an instruction answers. -/
abbrev Out := Host.Outcome State Fault Refusal

/-- Goes on with what the first outcome answers; a stop stays a stop. -/
def andThen {α β : Type} (x : Host.Outcome α Fault Refusal) (k : α → Host.Outcome β Fault Refusal) :
    Host.Outcome β Fault Refusal :=
  match x with
  | .next a => k a
  | .fault f => .fault f
  | .refused r => .refused r

/-- The fault of a record, in the state it leaves. -/
def FaultRecord.leaving : FaultRecord → State → Fault
  | .undefinedInstruction w a, s => .undefinedInstruction w a s
  | .reservedCondition w a, s => .reservedCondition w a s
  | .translation l va acc, s => .translation l va acc s
  | .domain va acc d l, s => .domain va acc d l s
  | .permission va acc d ap l, s => .permission va acc d ap l s
  | .alignment a n acc, s => .alignment a n acc s
  | .protocolViolation r, s => .protocolViolation r s

/-- The refusal of a reason, in the state it leaves. -/
def RefusalReason.leaving : RefusalReason → State → Refusal
  | .shouldBeField, s => .shouldBeField s
  | .unpredictable, s => .unpredictable s
  | .badSpsrRestore, s => .badSpsrRestore s
  | .badStatusValue, s => .badStatusValue s
  | .userControlWrite, s => .userControlWrite s
  | .thumbUnsupported, s => .thumbUnsupported s
  | .bigEndianUnsupported, s => .bigEndianUnsupported s
  | .userModeCP15, s => .userModeCP15 s
  | .apSR11, s => .apSR11 s
  | .subWordPeripheral, s => .subWordPeripheral s

/-- The state with its stop record set (10_state.md R46, 60_exceptions.md R331); the raw PC is still that of the
instruction (40_dispatch.md R163). -/
def State.stopFault (s : State) (r : FaultRecord) : State := { s with stop := .fault r s.pc }

def State.stopRefusal (s : State) (r : RefusalReason) : State := { s with stop := .refusal r s.pc }

/-- `raise F(info)` (00_scope.md R13): the tick ends, and the core stops for good. -/
def raise {α : Type} (r : FaultRecord) (s : State) : Host.Outcome α Fault Refusal :=
  .fault (r.leaving (s.stopFault r))

/-- `refuse(reason)` (R13). -/
def refuse {α : Type} (r : RefusalReason) (s : State) : Host.Outcome α Fault Refusal :=
  .refused (r.leaving (s.stopRefusal r))

/-! ### The status register -/

/-- The processor modes (10_state.md R21, 00_scope.md R17). -/
inductive Mode where
  | usr | fiq | irq | svc | abt | und | sys
  deriving DecidableEq, Repr

/-- The mode of an M field; none for the 25 invalid values (R21). -/
def Mode.ofBits (b : BitVec 5) : Option Mode :=
  match b.toNat with
  | 0x10 => some .usr | 0x11 => some .fiq | 0x12 => some .irq | 0x13 => some .svc
  | 0x17 => some .abt | 0x1B => some .und | 0x1F => some .sys
  | _ => none

/-- The M field of a mode (R21). -/
def Mode.bits : Mode → BitVec 5
  | .usr => 0x10 | .fiq => 0x11 | .irq => 0x12 | .svc => 0x13 | .abt => 0x17 | .und => 0x1B | .sys => 0x1F

/-- `IsPrivileged(M)` (R33, R342): every mode but usr. -/
def Mode.privileged : Mode → Bool
  | .usr => false
  | _ => true

/-- The M field of a status register value (R28). -/
def modeField (p : Word) : BitVec 5 := p.extractLsb' 0 5

/-- The T bit of a status register value (R28). -/
def tBit (p : Word) : Bool := p.getLsbD 5

/-- A status value the core may hold: T = 0 and a valid mode (R183, R233, R234). -/
def statusValid (p : Word) : Bool := !tBit p && (Mode.ofBits (modeField p)).isSome

/-- The condition flags (R30). -/
structure Flags where
  n : Bool
  z : Bool
  c : Bool
  v : Bool
  deriving DecidableEq, Repr

/-- The condition flags of a status register value (R28). -/
def flagsOf (p : Word) : Flags := ⟨p.getLsbD 31, p.getLsbD 30, p.getLsbD 29, p.getLsbD 28⟩

/-- A status register value with new condition flags, bits 27:0 unchanged. -/
def withFlags (p : Word) (f : Flags) : Word :=
  BitVec.ofBool f.n ++ BitVec.ofBool f.z ++ BitVec.ofBool f.c ++ BitVec.ofBool f.v ++ p.extractLsb' 0 28

/-- The current mode, from CPSR.M at this moment (R24). An invalid M, which the core never holds (R21), is
taken as usr (log 8). -/
def State.mode (s : State) : Mode := (Mode.ofBits (modeField s.cpsr)).getD .usr

/-- Whether the current mode is privileged (R33). -/
def State.privileged (s : State) : Bool := s.mode.privileged

/-- The current condition flags. -/
def State.flags (s : State) : Flags := flagsOf s.cpsr

/-- Writes the condition flags and no other bit. -/
def State.setFlags (s : State) (f : Flags) : State := { s with cpsr := withFlags s.cpsr f }

/-! ### The banked registers -/

/-- The contents of a cell. -/
def Regs.get (r : Regs) : Cell → Word
  | .r0 => r.r0 | .r1 => r.r1 | .r2 => r.r2 | .r3 => r.r3
  | .r4 => r.r4 | .r5 => r.r5 | .r6 => r.r6 | .r7 => r.r7
  | .r8_usr => r.r8_usr | .r9_usr => r.r9_usr | .r10_usr => r.r10_usr | .r11_usr => r.r11_usr | .r12_usr => r.r12_usr
  | .r8_fiq => r.r8_fiq | .r9_fiq => r.r9_fiq | .r10_fiq => r.r10_fiq | .r11_fiq => r.r11_fiq | .r12_fiq => r.r12_fiq
  | .r13_usr => r.r13_usr | .r13_fiq => r.r13_fiq | .r13_irq => r.r13_irq
  | .r13_svc => r.r13_svc | .r13_abt => r.r13_abt | .r13_und => r.r13_und
  | .r14_usr => r.r14_usr | .r14_fiq => r.r14_fiq | .r14_irq => r.r14_irq
  | .r14_svc => r.r14_svc | .r14_abt => r.r14_abt | .r14_und => r.r14_und

/-- The registers with a new value in one cell. -/
def Regs.set (r : Regs) (c : Cell) (v : Word) : Regs :=
  match c with
  | .r0 => { r with r0 := v } | .r1 => { r with r1 := v } | .r2 => { r with r2 := v } | .r3 => { r with r3 := v }
  | .r4 => { r with r4 := v } | .r5 => { r with r5 := v } | .r6 => { r with r6 := v } | .r7 => { r with r7 := v }
  | .r8_usr => { r with r8_usr := v } | .r9_usr => { r with r9_usr := v } | .r10_usr => { r with r10_usr := v }
  | .r11_usr => { r with r11_usr := v } | .r12_usr => { r with r12_usr := v }
  | .r8_fiq => { r with r8_fiq := v } | .r9_fiq => { r with r9_fiq := v } | .r10_fiq => { r with r10_fiq := v }
  | .r11_fiq => { r with r11_fiq := v } | .r12_fiq => { r with r12_fiq := v }
  | .r13_usr => { r with r13_usr := v } | .r13_fiq => { r with r13_fiq := v } | .r13_irq => { r with r13_irq := v }
  | .r13_svc => { r with r13_svc := v } | .r13_abt => { r with r13_abt := v } | .r13_und => { r with r13_und := v }
  | .r14_usr => { r with r14_usr := v } | .r14_fiq => { r with r14_fiq := v } | .r14_irq => { r with r14_irq := v }
  | .r14_svc => { r with r14_svc := v } | .r14_abt => { r with r14_abt := v } | .r14_und => { r with r14_und := v }

/-- The cell of r13 in a mode (R23). -/
def Mode.r13 : Mode → Cell
  | .usr | .sys => .r13_usr
  | .fiq => .r13_fiq | .irq => .r13_irq | .svc => .r13_svc | .abt => .r13_abt | .und => .r13_und

/-- The cell of r14 in a mode (R23). -/
def Mode.r14 : Mode → Cell
  | .usr | .sys => .r14_usr
  | .fiq => .r14_fiq | .irq => .r14_irq | .svc => .r14_svc | .abt => .r14_abt | .und => .r14_und

/-- The banking table (R23): the cell a register number names in a mode; none for r15, the PC. -/
def Mode.cell (m : Mode) (i : Reg) : Option Cell :=
  match i.val with
  | 0 => some .r0 | 1 => some .r1 | 2 => some .r2 | 3 => some .r3
  | 4 => some .r4 | 5 => some .r5 | 6 => some .r6 | 7 => some .r7
  | 8 => some (if m = .fiq then .r8_fiq else .r8_usr)
  | 9 => some (if m = .fiq then .r9_fiq else .r9_usr)
  | 10 => some (if m = .fiq then .r10_fiq else .r10_usr)
  | 11 => some (if m = .fiq then .r11_fiq else .r11_usr)
  | 12 => some (if m = .fiq then .r12_fiq else .r12_usr)
  | 13 => some m.r13
  | 14 => some m.r14
  | _ => none

/-- A register read through the bank of a mode; r15 reads as the raw PC plus 8 (R25). -/
def State.readAs (s : State) (m : Mode) (i : Reg) : Word :=
  match m.cell i with
  | some c => s.regs.get c
  | none => s.pc + 8

/-- The PC write path (R26): the value as it is. -/
def State.setPc (s : State) (v : Word) : State := { s with pc := v }

/-- A register write through the bank of a mode; r15 goes through the PC write path (R26). -/
def State.writeAs (s : State) (m : Mode) (i : Reg) (v : Word) : State :=
  match m.cell i with
  | some c => { s with regs := s.regs.set c v }
  | none => s.setPc v

/-- `x[i]` (00_scope.md R11): the current mode's bank. -/
def State.readReg (s : State) (i : Reg) : Word := s.readAs s.mode i

/-- `x[i] <- v` (R11). -/
def State.writeReg (s : State) (i : Reg) (v : Word) : State := s.writeAs s.mode i v

/-- `xu[i]` (R11): the user bank, whatever the mode. -/
def State.readUser (s : State) (i : Reg) : Word := s.readAs .usr i

/-- `xu[i] <- v` (R11). -/
def State.writeUser (s : State) (i : Reg) (v : Word) : State := s.writeAs .usr i v

/-- The advance of the raw PC at the end of a tick that did not write r15 (40_dispatch.md R161). -/
def State.advance (s : State) : State := s.setPc (s.pc + 4)

/-- The end of an instruction with result v for register i: a write of r15 is the new PC, any other register is
written and the PC advances (R26, R161). -/
def State.finishWith (s : State) (i : Reg) (v : Word) : State :=
  if i = 15 then s.setPc v else (s.writeReg i v).advance

/-! ### The saved status registers -/

/-- The SPSR of a mode; none in usr and sys (10_state.md R34, R35). -/
def Mode.spsrCell : Mode → Option SpsrCell
  | .usr | .sys => none
  | .fiq => some .fiq | .irq => some .irq | .svc => some .svc | .abt => some .abt | .und => some .und

def Spsrs.get (p : Spsrs) : SpsrCell → Word
  | .fiq => p.fiq | .irq => p.irq | .svc => p.svc | .abt => p.abt | .und => p.und

def Spsrs.set (p : Spsrs) (c : SpsrCell) (v : Word) : Spsrs :=
  match c with
  | .fiq => { p with fiq := v } | .irq => { p with irq := v } | .svc => { p with svc := v }
  | .abt => { p with abt := v } | .und => { p with und := v }

/-- `SPSR` of the current mode (R34). -/
def State.readSpsr (s : State) : Option Word := s.mode.spsrCell.map s.spsr.get

/-- `SPSR <- v`; the callers have checked that the mode has one (R35). -/
def State.writeSpsr (s : State) (v : Word) : State :=
  match s.mode.spsrCell with
  | some c => { s with spsr := s.spsr.set c v }
  | none => s

/-! ### Control register bits -/

/-- Control.M, bit 0: the MMU is on (10_state.md R40). -/
def State.mmuOn (s : State) : Bool := s.cp15.control.getLsbD 0

/-- Control.A, bit 1: alignment faults. -/
def State.alignCheck (s : State) : Bool := s.cp15.control.getLsbD 1

/-- Control.S, bit 8: System protection. -/
def State.sysProt (s : State) : Bool := s.cp15.control.getLsbD 8

/-- Control.R, bit 9: ROM protection. -/
def State.romProt (s : State) : Bool := s.cp15.control.getLsbD 9

/-- Control.V, bit 13: high vectors. -/
def State.highVectors (s : State) : Bool := s.cp15.control.getLsbD 13

/-- Control.U, bit 22: unaligned accesses allowed. -/
def State.unalignedAllowed (s : State) : Bool := s.cp15.control.getLsbD 22

/-! ### Exceptions -/

/-- The CPSR on entry to mode m (60_exceptions.md R338): M = m, T = 0, I = 1, F and the flags unchanged. -/
def entryStatus (m : Mode) (old : Word) : Word := (old &&& ~~~0x000000BF#32) ||| 0x00000080#32 ||| m.bits.setWidth 32

/-- The base of the exception vectors (R338). -/
def State.vectorBase (s : State) : Word := if s.highVectors then 0xFFFF0000#32 else 0#32

/-- Taking an exception into mode m at vector offset `off` (R338): the mode changes, SPSR_m holds the old CPSR,
R14_m holds A + 4, and the PC goes to the vector. -/
def State.takeException (s : State) (m : Mode) (off : Word) : State :=
  ((({ s with cpsr := entryStatus m s.cpsr }).writeSpsr s.cpsr).writeReg 14 (s.pc + 4)).setPc (s.vectorBase + off)

/-- The decode-time checks of an SPSR restore (41_data_processing.md R183, 46_block_transfer.md R295), then what
the instruction does with the SPSR value. -/
def withRestorable (s : State) (k : Word → Out) : Out :=
  match s.readSpsr with
  | none => raise (.protocolViolation .noSpsr) s
  | some p => if statusValid p then k p else refuse .badSpsrRestore s

/-- The return from an exception (R183, R341): the PC is written and CPSR is replaced whole. -/
def State.returnTo (s : State) (target status : Word) : State := { s.setPc target with cpsr := status }

end Sys2Proof.Machine
end

