-- ==== Sys2Proof/Machine/Mmu.lean ====
section
/-! DEFINITION. Memory accesses: address translation with its domain and permission checks (20_memory.md R80 to
R97), the routing of a physical access to memory or a device (R65), and the virtual accesses built on them
(R67 to R71). -/

namespace Sys2Proof.Machine

/-! ### Domain and access permission -/

/-- The DACR field of a domain (10_state.md R43). -/
def dacField (dacr : Word) (d : BitVec 4) : BitVec 2 := dacr.extractLsb' (2 * d.toNat) 2

/-- What an AP check allows; execute goes with read (R91, D4). -/
structure Perm where
  read : Bool
  write : Bool
  deriving DecidableEq, Repr

/-- The access kind is in the permission mask (R93). -/
def Perm.allows (p : Perm) : Access → Bool
  | .read => p.read
  | .execute => p.read
  | .write => p.write

/-- The AP permission table (R91); none for AP = 0b00 with S = R = 1, which is refused. -/
def apTable (ap : BitVec 2) (sysProt romProt priv : Bool) : Option Perm :=
  if ap = 0b11 then some ⟨true, true⟩
  else if ap = 0b10 then some ⟨true, priv⟩
  else if ap = 0b01 then some ⟨priv, priv⟩
  else match sysProt, romProt with
    | false, false => some ⟨false, false⟩
    | true, false => some ⟨priv, false⟩
    | false, true => some ⟨true, false⟩
    | true, true => none

/-- `Check(d, ap, level)` of R94: the domain check (R90), then for a client the AP check (R93). -/
def checkAccess (d : BitVec 4) (ap : BitVec 2) (level : Level) (va : Word) (acc : Access) (priv : Bool) (pa : Word)
    (s : State) : Host.Outcome Word Fault Refusal :=
  if dacField s.cp15.dacr d = 0b11 then .next pa
  else if dacField s.cp15.dacr d = 0b01 then
    match apTable ap s.sysProt s.romProt priv with
    | none => refuse .apSR11 s
    | some p => if p.allows acc then .next pa else raise (.permission va acc d ap level) s
  else raise (.domain va acc d level) s

/-! ### The table walk -/

/-- The address of the first-level descriptor (R81). -/
def firstAddr (ttb va : Word) : Word := (ttb &&& 0xFFFFC000#32) ||| ((va >>> 18) &&& 0x00003FFC#32)

/-- The address of a coarse second-level descriptor (R85). -/
def coarseAddr (l1 va : Word) : Word := (l1 &&& 0xFFFFFC00#32) ||| ((va >>> 10) &&& 0x3FC#32)

/-- The address of a fine second-level descriptor (R86). -/
def fineAddr (l1 va : Word) : Word := (l1 &&& 0xFFFFF000#32) ||| ((va >>> 8) &&& 0xFFC#32)

/-- The domain of a first-level descriptor (R82, R89). -/
def domainOf (l1 : Word) : BitVec 4 := l1.extractLsb' 5 4

/-- The type bits of a descriptor (R82, R87). -/
def typeOf (l : Word) : BitVec 2 := l.extractLsb' 0 2

/-- AP(k) of a second-level descriptor: bits 5+2k to 4+2k (R89). -/
def apOf (l2 : Word) (k : BitVec 2) : BitVec 2 := l2.extractLsb' (4 + 2 * k.toNat) 2

/-- The section's address (R84): L1[31:20] : va[19:0]. -/
def sectionAddr (l1 va : Word) : Word := l1.extractLsb' 20 12 ++ va.extractLsb' 0 20

/-- The page's address: large L2[31:16] : va[15:0], small L2[31:12] : va[11:0], tiny L2[31:10] : va[9:0] (R89). -/
def largeAddr (l2 va : Word) : Word := l2.extractLsb' 16 16 ++ va.extractLsb' 0 16

def smallAddr (l2 va : Word) : Word := l2.extractLsb' 12 20 ++ va.extractLsb' 0 12

def tinyAddr (l2 va : Word) : Word := l2.extractLsb' 10 22 ++ va.extractLsb' 0 10

/-- The second half of the walk, from a second-level descriptor (R87 to R89, R94). -/
def walkPage (d : BitVec 4) (l2 va : Word) (acc : Access) (priv : Bool) (s : State) : Host.Outcome Word Fault Refusal :=
  if typeOf l2 = 0b01 then checkAccess d (apOf l2 (va.extractLsb' 14 2)) .page va acc priv (largeAddr l2 va) s
  else if typeOf l2 = 0b10 then checkAccess d (apOf l2 (va.extractLsb' 10 2)) .page va acc priv (smallAddr l2 va) s
  else if typeOf l2 = 0b11 then checkAccess d (apOf l2 0) .page va acc priv (tinyAddr l2 va) s
  else raise (.translation .page va acc) s

/-- The walk (R94). Descriptors are read straight from the memory store, never from a device (R95). -/
def walk (va : Word) (acc : Access) (priv : Bool) (s : State) : Host.Outcome Word Fault Refusal :=
  let l1 := s.mem.load (firstAddr s.cp15.ttb va) .word
  if typeOf l1 = 0b10 then checkAccess (domainOf l1) (l1.extractLsb' 10 2) .sect va acc priv (sectionAddr l1 va) s
  else if typeOf l1 = 0b01 then walkPage (domainOf l1) (s.mem.load (coarseAddr l1 va) .word) va acc priv s
  else if typeOf l1 = 0b11 then walkPage (domainOf l1) (s.mem.load (fineAddr l1 va) .word) va acc priv s
  else raise (.translation .sect va acc) s

/-- `Translate(va, acc, priv)` (R80): the identity while Control.M = 0, else the walk. -/
def translate (va : Word) (acc : Access) (priv : Bool) (s : State) : Host.Outcome Word Fault Refusal :=
  if s.mmuOn then walk va acc priv s else .next va

/-! ### Physical accesses -/

/-- The address lies in the device's inclusive range (R65). -/
def Device.holds (d : Device) (pa : Word) : Bool := d.first ≤ pa && pa ≤ d.last

/-- The device that claims an address, with its place in the list: the first one, the ranges being disjoint by
D10 (R65). `k` is the place of the head of the list. -/
def findDevice : List Device → Word → Nat → Option (Nat × Device)
  | [], _, _ => none
  | d :: ds, pa, k => if Device.holds d pa then some (k, d) else findDevice ds pa (k + 1)

/-- The device that claims a physical address of the machine. -/
def State.deviceAt (s : State) (pa : Word) : Option (Nat × Device) := findDevice s.params.peripherals pa 0

/-- A device access must be a 4-byte access at a 4-byte-aligned address (R65). -/
def withDeviceWord {α : Type} (pa : Word) (n : Width) (acc : Access) (s : State)
    (k : Host.Outcome α Fault Refusal) : Host.Outcome α Fault Refusal :=
  match n with
  | .word => if misaligned pa .word then raise (.alignment pa 4 acc) s else k
  | _ => refuse .subWordPeripheral s

/-- A physical read through the routing of R65: the value and the state after it. A device answers a free value
(log 5), and the access is recorded. -/
def physRead (pa : Word) (n : Width) (acc : Access) (s : State) : Host.Outcome (Word × State) Fault Refusal :=
  match s.deviceAt pa with
  | some (k, d) =>
    withDeviceWord pa n acc s
      (.next (Config.deviceRead s.draws k (pa - d.first),
        { s with draws := s.draws + 1, devLog := s.devLog ++ [.read k (pa - d.first)] }))
  | none =>
    if misaligned pa n then raise (.alignment pa n.bytes acc) s else .next (s.mem.load pa n, s)

/-- A physical write through the routing of R65: a device write is recorded and leaves memory as it is. -/
def physWrite (pa : Word) (n : Width) (v : Word) (s : State) : Out :=
  match s.deviceAt pa with
  | some (k, d) =>
    withDeviceWord pa n .write s (.next { s with devLog := s.devLog ++ [.write k (pa - d.first) v] })
  | none =>
    if misaligned pa n then raise (.alignment pa n.bytes .write) s else .next { s with mem := s.mem.store pa v n }

/-! ### Virtual accesses -/

/-- `MemRead(va, n, acc, priv)` (R67): alignment (R68, R70, R71), translation, then the physical access. A
misaligned access faults whatever Control.A says; the one exception is `loadWord`. -/
def memRead (va : Word) (n : Width) (acc : Access) (priv : Bool) (s : State) :
    Host.Outcome (Word × State) Fault Refusal :=
  if misaligned va n then raise (.alignment va n.bytes acc) s
  else andThen (translate va acc priv s) fun pa => physRead pa n acc s

/-- `MemWrite(va, n, v, write, priv)` (R67). -/
def memWrite (va : Word) (n : Width) (v : Word) (priv : Bool) (s : State) : Out :=
  if misaligned va n then raise (.alignment va n.bytes .write) s
  else andThen (translate va .write priv s) fun pa => physWrite pa n v s

/-- Whether a word load at this address is the rotated read of R69: misaligned, Control.A = 0 and U = 0. -/
def rotatedLoad (va : Word) (s : State) : Bool := misaligned va .word && !s.alignCheck && !s.unalignedAllowed

/-- The word load of LDR and LDRT (R69, 45_load_store.md R252). -/
def loadWord (va : Word) (priv : Bool) (s : State) : Host.Outcome (Word × State) Fault Refusal :=
  if rotatedLoad va s then
    andThen (memRead (va &&& 0xFFFFFFFC#32) .word .read priv s) fun r =>
      .next (r.1.rotateRight (8 * (va.extractLsb' 0 2).toNat), r.2)
  else memRead va .word .read priv s

/-- The instruction fetch at the raw PC (R71). -/
def fetch (s : State) : Host.Outcome (Word × State) Fault Refusal := memRead s.pc .word .execute s.privileged s

end Sys2Proof.Machine
end

