-- ==== Sys2Proof/Machine/Flags.lean ====
section
/-! DEFINITION. Every computation of the condition flags: conditions (30_encoding.md R121, 40_dispatch.md R153), the
flag helpers of 00_scope.md R14, the flag classes of 41_data_processing.md R182 and the multiply flags of
42_multiply_clz.md R210. -/

namespace Sys2Proof.Machine

/-- `ConditionPassed` (R121, R153): a function of the four flags alone. -/
def Cond.passes (c : Cond) (f : Flags) : Bool :=
  match c with
  | .eq => f.z
  | .ne => !f.z
  | .cs => f.c
  | .cc => !f.c
  | .mi => f.n
  | .pl => !f.n
  | .vs => f.v
  | .vc => !f.v
  | .hi => f.c && !f.z
  | .ls => !f.c || f.z
  | .ge => f.n == f.v
  | .lt => f.n != f.v
  | .gt => f.n == f.v && !f.z
  | .le => f.n != f.v || f.z
  | .al => true

/-- An instruction under its condition: skipped, with only the PC advanced, when it fails (R154). -/
def whenPassed (c : Cond) (s : State) (k : State → Out) : Out :=
  if Cond.passes c s.flags then k s else .next s.advance

/-- The carry out of an addition with carry in (R14 CarryAdd). -/
def carryAdd (a b : Word) (c : Bool) : Bool := decide (2 ^ 32 ≤ a.toNat + b.toNat + c.toNat)

/-- The overflow of an addition with result r (R14 OverflowAdd). -/
def overflowAdd (a b r : Word) : Bool := a.getLsbD 31 == b.getLsbD 31 && a.getLsbD 31 != r.getLsbD 31

/-- The carry out of a subtraction: no borrow (R14 NotBorrow). -/
def notBorrow (a b : Word) (c : Bool) : Bool := decide (b.toNat + (1 - c.toNat) ≤ a.toNat)

/-- The overflow of a subtraction with result r (R14 OverflowSub). -/
def overflowSub (a b r : Word) : Bool := a.getLsbD 31 != b.getLsbD 31 && a.getLsbD 31 != r.getLsbD 31

/-- The carry in as a word. -/
def carryWord (c : Bool) : Word := (BitVec.ofBool c).setWidth 32

/-- A data-processing result with the C and V it leaves when S = 1 (R182). -/
structure AluResult where
  value : Word
  carry : Bool
  overflow : Bool
  deriving DecidableEq, Repr

/-- N and Z from the result, C and V from its class (R182). -/
def AluResult.flags (r : AluResult) : Flags := ⟨r.value.getLsbD 31, r.value == 0, r.carry, r.overflow⟩

/-- The logical class: C is the shifter's carry-out, V unchanged (R182). -/
def logicalResult (r : Word) (sc : Bool) (old : Flags) : AluResult := ⟨r, sc, old.v⟩

/-- The addition class (R182). -/
def addResult (a b : Word) (cin : Bool) : AluResult :=
  let r := a + b + carryWord cin
  ⟨r, carryAdd a b cin, overflowAdd a b r⟩

/-- The subtraction class (R182); a reverse subtraction swaps the operands. -/
def subResult (a b : Word) (cin : Bool) : AluResult :=
  let r := a - b - carryWord (!cin)
  ⟨r, notBorrow a b cin, overflowSub a b r⟩

/-- N and Z of a 32-bit product, C and V unchanged (R210, D24). -/
def mulFlags (p : Word) (old : Flags) : Flags := ⟨p.getLsbD 31, p == 0, old.c, old.v⟩

/-- N and Z of a 64-bit product, C and V unchanged (R210, D24). -/
def mullFlags (p : BitVec 64) (old : Flags) : Flags := ⟨p.getLsbD 63, p == 0, old.c, old.v⟩

end Sys2Proof.Machine
end

