-- ==== Sys2Proof/Machine/Operands.lean ====
section
/-! DEFINITION. Every operand form: the shifter operand and its carry-out (41_data_processing.md R170 to R178),
the addressing modes of single transfers (45_load_store.md R250, R251, R261) and of block transfers
(46_block_transfer.md R290, R291), and the register restrictions that a rule refuses. -/

namespace Sys2Proof.Machine

/-! ### The barrel shifter -/

/-- A shifter result: the operand op2 and the carry-out sc (R170). -/
structure Shifted where
  op2 : Word
  carry : Bool
  deriving DecidableEq, Repr

/-- 32 copies of a bit. -/
def fill (b : Bool) : Word := if b then 0xFFFFFFFF#32 else 0#32

/-- Rotation right of a word by n mod 32 (R10). -/
def ror (v : Word) (n : Nat) : Word := v.rotateRight n

/-- The immediate operand (R125, R171); c is CPSR.C. -/
def immShifted (op : ImmOp) (c : Bool) : Shifted :=
  let v := ror (op.imm.setWidth 32) (2 * op.rot.toNat)
  ⟨v, if op.rot = 0 then c else v.getLsbD 31⟩

/-- The operand of an immediate (R125): what MSR takes, and `immShifted`'s operand. -/
def immValue (op : ImmOp) : Word := (immShifted op false).op2

/-- A register value shifted by an immediate n, 0 to 31 (R172 to R175). -/
def shiftImm (t : Shift) (v : Word) (n : Nat) (c : Bool) : Shifted :=
  match t with
  | .lsl => if n = 0 then ⟨v, c⟩ else ⟨v <<< n, v.getLsbD (32 - n)⟩
  | .lsr => if n = 0 then ⟨0, v.getLsbD 31⟩ else ⟨v >>> n, v.getLsbD (n - 1)⟩
  | .asr => if n = 0 then ⟨fill (v.getLsbD 31), v.getLsbD 31⟩ else ⟨v.sshiftRight n, v.getLsbD (n - 1)⟩
  | .ror => if n = 0 then ⟨carryWord c <<< 31 ||| v >>> 1, v.getLsbD 0⟩ else ⟨ror v n, v.getLsbD (n - 1)⟩

/-- A register value shifted by a register amount n, 0 to 255 (R176, R177). -/
def shiftReg (t : Shift) (v : Word) (n : Nat) (c : Bool) : Shifted :=
  if n = 0 then ⟨v, c⟩
  else match t with
    | .lsl =>
      if n < 32 then ⟨v <<< n, v.getLsbD (32 - n)⟩
      else if n = 32 then ⟨0, v.getLsbD 0⟩
      else ⟨0, false⟩
    | .lsr =>
      if n < 32 then ⟨v >>> n, v.getLsbD (n - 1)⟩
      else if n = 32 then ⟨0, v.getLsbD 31⟩
      else ⟨0, false⟩
    | .asr =>
      if n < 32 then ⟨v.sshiftRight n, v.getLsbD (n - 1)⟩
      else ⟨fill (v.getLsbD 31), v.getLsbD 31⟩
    | .ror =>
      if n % 32 = 0 then ⟨v, v.getLsbD 31⟩
      else ⟨ror v (n % 32), v.getLsbD (n % 32 - 1)⟩

/-- The operand of dp_reg_imm_shift (R170); Rm = 15 reads A + 8 (R178). -/
def rsiShifted (op : RsiOp) (s : State) : Shifted :=
  shiftImm op.shift (s.readReg op.rm) op.amount.toNat s.flags.c

/-- The operand of dp_reg_reg_shift (R170): only bits 7:0 of Rs count (R178). -/
def rsrShifted (op : RsrOp) (s : State) : Shifted :=
  shiftReg op.shift (s.readReg op.rm) ((s.readReg op.rs).extractLsb' 0 8).toNat s.flags.c

/-- The operand registers that dp_reg_reg_shift refuses as the PC: Rm or Rs (R178). -/
def RsrOp.usesPc (op : RsrOp) : Bool := op.rm == 15 || op.rs == 15

/-! ### Single transfers -/

/-- A transfer address with the updated base, and whether the base is written back (R251). -/
structure Transfer where
  addr : Word
  upd : Word
  back : Bool
  deriving DecidableEq, Repr

/-- The base plus or minus the offset, as U says (R250). -/
def updated (u : Bool) (base off : Word) : Word := if u then base + off else base - off

/-- Pre-indexed: the updated base is the address, written back when W = 1 (R251). -/
def preIndexed (u w : Bool) (base off : Word) : Transfer := ⟨updated u base off, updated u base off, w⟩

/-- Post-indexed: the base is the address, the updated base is written back (R251). -/
def postIndexed (u : Bool) (base off : Word) : Transfer := ⟨base, updated u base off, true⟩

/-- The immediate offset of addressing mode 2 (R250). -/
def offset12 (off : BitVec 12) : Word := off.setWidth 32

/-- The scaled register offset of addressing mode 2, its carry-out discarded (R250). -/
def offsetReg (op : RsiOp) (s : State) : Word := (rsiShifted op s).op2

/-- The immediate offset of addressing mode 3 (R261). -/
def offset8 (off : BitVec 8) : Word := off.setWidth 32

/-- Addressing mode 3: pre-indexed or post-indexed as P says (R251, R261). -/
def halfTransfer (p u w : Bool) (base off : Word) : Transfer :=
  if p then preIndexed u w base off else postIndexed u base off

/-- The decode-time write-back of the base (40_dispatch.md R159). -/
def writeBack (rn : Reg) (t : Transfer) (s : State) : State := if t.back then s.writeReg rn t.upd else s

/-- Write-back into the PC (R251). -/
def Transfer.backToPc (t : Transfer) (rn : Reg) : Bool := t.back && rn == 15

/-- A store whose write-back base is its data register (R253). -/
def Transfer.backToData (t : Transfer) (rn rd : Reg) : Bool := t.back && rn == rd

/-- What R261 refuses of every addressing-mode-3 form: Rd = 15, or P = 0 with W = 1. -/
def halfRefused (p w : Bool) (rd : Reg) : Bool := rd == 15 || (!p && w)

/-! ### Block transfers -/

/-- The register numbers in order. -/
def allRegs : List Reg := [0, 1, 2, 3, 4, 5, 6, 7, 8, 9, 10, 11, 12, 13, 14, 15]

/-- The registers of a list, in increasing order (R125, R291). -/
def listRegs (list : BitVec 16) : List Reg := allRegs.filter (fun i => list.getLsbD i.val)

/-- 4n for a list of n registers, as a word (R290). -/
def listBytes (list : BitVec 16) : Word := BitVec.ofNat 32 (4 * (listRegs list).length)

/-- The address of the first word (R290). -/
def blockStart (p u : Bool) (base : Word) (list : BitVec 16) : Word :=
  match p, u with
  | false, true => base
  | true, true => base + 4
  | false, false => base - listBytes list + 4
  | true, false => base - listBytes list

/-- The write-back value (R290). -/
def blockBack (u : Bool) (base : Word) (list : BitVec 16) : Word :=
  if u then base + listBytes list else base - listBytes list

/-- What R299 refuses of every block transfer: an empty list, Rn = 15, or write-back with Rn in the list. -/
def blockRefused (w : Bool) (rn : Reg) (list : BitVec 16) : Bool :=
  list == 0 || rn == 15 || (w && list.getLsbD rn.val)

/-- What R294 and R297 refuse of the user-bank forms besides: W = 1, or usr or sys mode. -/
def userBankRefused (w : Bool) (m : Mode) : Bool := w || m == .usr || m == .sys

end Sys2Proof.Machine
end

