-- ==== Sys2Proof/Machine/Block.lean ====
section
/-! DEFINITION. Block transfer: LDM(1) to LDM(3), STM(1) and STM(2) (46_block_transfer.md R290 to R299). -/

namespace Sys2Proof.Machine

/-- The loads of a block (R291, R292): the registers in increasing order from rising addresses, each word put away
by `put`. A load that stops leaves the registers before it loaded. -/
def loadBlock (put : Reg → Word → State → State) : List Reg → Word → State → Out
  | [], _, s => .next s
  | i :: is, a, s =>
    andThen (memRead a .word .read s.privileged s) fun r => loadBlock put is (a + 4) (put i r.1 r.2)

/-- The stores of a block (R296): the values in order at rising addresses. -/
def storeBlock : List Word → Word → State → Out
  | [], _, s => .next s
  | v :: vs, a, s => andThen (memWrite a .word v s.privileged s) fun s' => storeBlock vs (a + 4) s'

/-- A loaded register of LDM(1) and LDM(3): a loaded PC has its low two bits cleared (R293). -/
def putLoaded (i : Reg) (v : Word) (s : State) : State :=
  if i = 15 then s.setPc (v &&& 0xFFFFFFFC#32) else s.writeReg i v

/-- A loaded register of LDM(2): the user bank (R294). -/
def putUser (i : Reg) (v : Word) (s : State) : State := s.writeUser i v

/-- The write-back of a block transfer, after its last access (R298). -/
def blockWriteBack (w : Bool) (rn : Reg) (v : Word) (s : State) : State := if w then s.writeReg rn v else s

/-- The PC at the end of a load: as loaded when r15 was in the list, else advanced (R161). -/
def advanceUnlessLoaded (list : BitVec 16) (s : State) : State := if list.getLsbD 15 then s else s.advance

/-- The loads and the write-back of LDM(1) and LDM(3). -/
def loadMultiple (p u w : Bool) (rn : Reg) (list : BitVec 16) (s : State) : Out :=
  andThen (loadBlock putLoaded (listRegs list) (blockStart p u (s.readReg rn) list) s) fun s' =>
    .next (blockWriteBack w rn (blockBack u (s.readReg rn) list) s')

/-- The stores and the write-back of STM(1) and STM(2), of values read at decode time. -/
def storeMultiple (p u w : Bool) (rn : Reg) (list : BitVec 16) (value : Reg → Word) (s : State) : Out :=
  andThen (storeBlock ((listRegs list).map value) (blockStart p u (s.readReg rn) list) s) fun s' =>
    .next (blockWriteBack w rn (blockBack u (s.readReg rn) list) s').advance

/-- The register list of LDM(2): bit 15 is 0. -/
def userList (list : BitVec 15) : BitVec 16 := 0#1 ++ list

/-- The register list of LDM(3): bit 15 is 1. -/
def returnList (list : BitVec 15) : BitVec 16 := 1#1 ++ list

/-- LDM(1) (R292). -/
def execLdm1 (c : Cond) (p u w : Bool) (rn : Reg) (list : BitVec 16) (s : State) : Out :=
  whenPassed c s fun s =>
    if blockRefused w rn list then refuse .unpredictable s
    else andThen (loadMultiple p u w rn list s) fun s' => .next (advanceUnlessLoaded list s')

/-- LDM(2), into the user bank (R294); W = 1 is refused, so nothing is written back. -/
def execLdm2 (c : Cond) (p u w : Bool) (rn : Reg) (list : BitVec 15) (s : State) : Out :=
  whenPassed c s fun s =>
    if blockRefused w rn (userList list) || userBankRefused w s.mode then refuse .unpredictable s
    else andThen (loadBlock putUser (listRegs (userList list)) (blockStart p u (s.readReg rn) (userList list)) s)
      fun s' => .next s'.advance

/-- LDM(3), with the PC and the SPSR restore (R295). -/
def execLdm3 (c : Cond) (p u w : Bool) (rn : Reg) (list : BitVec 15) (s : State) : Out :=
  whenPassed c s fun s =>
    withRestorable s fun status =>
      if blockRefused w rn (returnList list) then refuse .unpredictable s
      else andThen (loadMultiple p u w rn (returnList list) s) fun s' => .next (s'.returnTo s'.pc status)

/-- STM(1) (R296). -/
def execStm1 (c : Cond) (p u w : Bool) (rn : Reg) (list : BitVec 16) (s : State) : Out :=
  whenPassed c s fun s =>
    if blockRefused w rn list then refuse .unpredictable s
    else storeMultiple p u w rn list s.readReg s

/-- STM(2), from the user bank (R297). -/
def execStm2 (c : Cond) (p u w : Bool) (rn : Reg) (list : BitVec 16) (s : State) : Out :=
  whenPassed c s fun s =>
    if blockRefused w rn list || userBankRefused w s.mode then refuse .unpredictable s
    else storeMultiple p u w rn list s.readUser s

end Sys2Proof.Machine
end

