-- ==== Sys2Proof/Machine/Branch.lean ====
section
/-! DEFINITION. The branches: B, BL, BX and BLX, register form (44_branch.md R240 to R244). -/

namespace Sys2Proof.Machine

/-- The branch offset: signed_immed_24 : 0b00, sign-extended (30_encoding.md R125). -/
def branchOffset (off : BitVec 24) : Word := (off ++ 0b00#2).signExtend 32

/-- The branch target: logical PC plus offset (R240). -/
def branchTarget (off : BitVec 24) (s : State) : Word := s.readReg 15 + branchOffset off

/-- A branch to a register value: an odd target would enter Thumb state and is refused (R243); `link` is what the
instruction writes besides the PC. -/
def branchExchange (t : Word) (link : State → State) (s : State) : Out :=
  if t.getLsbD 0 then refuse .thumbUnsupported s else .next ((link s).setPc t)

/-- The link: the address of the next instruction into the current mode's r14 (R241, R244). -/
def State.link (s : State) : State := s.writeReg 14 (s.pc + 4)

/-- B (R240). -/
def execB (c : Cond) (off : BitVec 24) (s : State) : Out :=
  whenPassed c s fun s => .next (s.setPc (branchTarget off s))

/-- BL (R241). -/
def execBl (c : Cond) (off : BitVec 24) (s : State) : Out :=
  whenPassed c s fun s => .next (s.link.setPc (branchTarget off s))

/-- BX (R242). -/
def execBx (c : Cond) (rm : Reg) (s : State) : Out :=
  whenPassed c s fun s => branchExchange (s.readReg rm) id s

/-- BLX, register form (R244): the target is read before the link is written. -/
def execBlxReg (c : Cond) (rm : Reg) (s : State) : Out :=
  whenPassed c s fun s =>
    if rm == 15 then refuse .unpredictable s else branchExchange (s.readReg rm) State.link s

end Sys2Proof.Machine
end

