-- ==== Sys2Proof/Machine/Coprocessor.lean ====
section
/-! DEFINITION. MCR and MRC and the CP15 registers they reach (47_coprocessor.md R310 to R316). -/

namespace Sys2Proof.Machine

/-- The decode-time checks MCR and MRC share, in the order of R310; `k` goes on with the (CRn, opcode_2) table. -/
def withCp15 (cp : BitVec 4) (rd : Reg) (s : State) (k : Out) : Out :=
  if cp != 15 then raise (.protocolViolation .coprocessorUnhandled) s
  else if s.mode == .usr then refuse .userModeCP15 s
  else if rd == 15 then refuse .unpredictable s
  else k

/-- What MRC reads (R313); none for an unhandled combination. -/
def readCp15 (crn : BitVec 4) (op2 : BitVec 3) (s : State) : Option Word :=
  match crn.toNat, op2.toNat with
  | 0, 0 => some s.cp15.mainId
  | 0, 1 => some s.cp15.cacheType
  | 1, 0 => some s.cp15.control
  | 2, 0 => some s.cp15.ttb
  | 3, 0 => some s.cp15.dacr
  | _, _ => none

/-- An MCR to the Control register: B = 1 is refused (10_state.md R41). -/
def writeControl (v : Word) (s : State) : Out :=
  if v.getLsbD 7 then refuse .bigEndianUnsupported s
  else .next { s with cp15 := { s.cp15 with control := v } }.advance

/-- What MCR does (R312, R314): the maintenance operations c7 and c8 only advance the PC. -/
def writeCp15 (crn : BitVec 4) (op2 : BitVec 3) (v : Word) (s : State) : Out :=
  match crn.toNat, op2.toNat with
  | 1, 0 => writeControl v s
  | 2, 0 => .next { s with cp15 := { s.cp15 with ttb := v } }.advance
  | 3, 0 => .next { s with cp15 := { s.cp15 with dacr := v } }.advance
  | 7, _ => .next s.advance
  | 8, _ => .next s.advance
  | _, _ => raise (.protocolViolation .coprocessorUnhandled) s

/-- MCR (R312). opcode_1 and CRm are not decoded (R310). -/
def execMcr (c : Cond) (_op1 : BitVec 3) (crn : BitVec 4) (rd : Reg) (cp : BitVec 4) (op2 : BitVec 3)
    (_crm : BitVec 4) (s : State) : Out :=
  whenPassed c s fun s => withCp15 cp rd s (writeCp15 crn op2 (s.readReg rd) s)

/-- MRC (R313). -/
def execMrc (c : Cond) (_op1 : BitVec 3) (crn : BitVec 4) (rd : Reg) (cp : BitVec 4) (op2 : BitVec 3)
    (_crm : BitVec 4) (s : State) : Out :=
  whenPassed c s fun s =>
    withCp15 cp rd s
      (match readCp15 crn op2 s with
       | none => raise (.protocolViolation .coprocessorUnhandled) s
       | some v => .next (s.writeReg rd v).advance)

end Sys2Proof.Machine
end

