-- ==== Sys2Proof/Machine/DataProcessing.lean ====
section
/-! DEFINITION. The sixteen data-processing instructions (41_data_processing.md R180 to R200), three operand forms
each: an operation on the operands, the end all forms share, and one meaning for each row. -/

namespace Sys2Proof.Machine

/-! ### The operations (R185 to R200): Rn's value, the shifter operand and the old flags to the result -/

/-- An operation: a = x[Rn], the shifter operand with its carry-out, and the flags at the start. -/
abbrev AluOp := Word → Shifted → Flags → AluResult

def aluAnd : AluOp := fun a o f => logicalResult (a &&& o.op2) o.carry f
def aluEor : AluOp := fun a o f => logicalResult (a ^^^ o.op2) o.carry f
def aluSub : AluOp := fun a o _ => subResult a o.op2 true
def aluRsb : AluOp := fun a o _ => subResult o.op2 a true
def aluAdd : AluOp := fun a o _ => addResult a o.op2 false
def aluAdc : AluOp := fun a o f => addResult a o.op2 f.c
def aluSbc : AluOp := fun a o f => subResult a o.op2 f.c
def aluRsc : AluOp := fun a o f => subResult o.op2 a f.c
def aluOrr : AluOp := fun a o f => logicalResult (a ||| o.op2) o.carry f
def aluBic : AluOp := fun a o f => logicalResult (a &&& ~~~o.op2) o.carry f

/-- MOV and MVN do not use Rn (R198, R200). -/
def aluMov : AluOp := fun _ o f => logicalResult o.op2 o.carry f
def aluMvn : AluOp := fun _ o f => logicalResult (~~~o.op2) o.carry f

/-! ### The end of an instruction -/

/-- The end of an instruction that writes Rd (R180 to R183): Rd = 15 is a PC write, with S = 1 an SPSR restore;
any other Rd is written, with S = 1 the flags too, and the PC advances. -/
def dpFinish (f : Bool) (rd : Reg) (r : AluResult) (s : State) : Out :=
  if rd = 15 then
    if f then withRestorable s fun p => .next (s.returnTo r.value p) else .next (s.setPc r.value)
  else
    let s' := s.writeReg rd r.value
    .next (if f then s'.setFlags r.flags else s').advance

/-- The end of a compare: the flags, and no register (R184). -/
def cmpFinish (r : AluResult) (s : State) : Out := .next (s.setFlags r.flags).advance

/-! ### The operand forms (R170) -/

def dpImm (alu : AluOp) (f : Bool) (rn rd : Reg) (op : ImmOp) (s : State) : Out :=
  dpFinish f rd (alu (s.readReg rn) (immShifted op s.flags.c) s.flags) s

def dpRsi (alu : AluOp) (f : Bool) (rn rd : Reg) (op : RsiOp) (s : State) : Out :=
  dpFinish f rd (alu (s.readReg rn) (rsiShifted op s) s.flags) s

/-- A register-specified shift is refused with any register 15 (R178). -/
def dpRsr (alu : AluOp) (f : Bool) (rn rd : Reg) (op : RsrOp) (s : State) : Out :=
  if rd == 15 || rn == 15 || RsrOp.usesPc op then refuse .unpredictable s
  else dpFinish f rd (alu (s.readReg rn) (rsrShifted op s) s.flags) s

def movImm (alu : AluOp) (f : Bool) (rd : Reg) (op : ImmOp) (s : State) : Out :=
  dpFinish f rd (alu 0 (immShifted op s.flags.c) s.flags) s

def movRsi (alu : AluOp) (f : Bool) (rd : Reg) (op : RsiOp) (s : State) : Out :=
  dpFinish f rd (alu 0 (rsiShifted op s) s.flags) s

def movRsr (alu : AluOp) (f : Bool) (rd : Reg) (op : RsrOp) (s : State) : Out :=
  if rd == 15 || RsrOp.usesPc op then refuse .unpredictable s
  else dpFinish f rd (alu 0 (rsrShifted op s) s.flags) s

def cmpImm (alu : AluOp) (rn : Reg) (op : ImmOp) (s : State) : Out :=
  cmpFinish (alu (s.readReg rn) (immShifted op s.flags.c) s.flags) s

def cmpRsi (alu : AluOp) (rn : Reg) (op : RsiOp) (s : State) : Out :=
  cmpFinish (alu (s.readReg rn) (rsiShifted op s) s.flags) s

def cmpRsr (alu : AluOp) (rn : Reg) (op : RsrOp) (s : State) : Out :=
  if rn == 15 || RsrOp.usesPc op then refuse .unpredictable s
  else cmpFinish (alu (s.readReg rn) (rsrShifted op s) s.flags) s

/-! ### The instructions -/

/-- AND (R185): `a AND op2`, logical flags. -/
def execAndImm (c : Cond) (f : Bool) (rn rd : Reg) (op : ImmOp) (s : State) : Out :=
  whenPassed c s (dpImm aluAnd f rn rd op)

def execAndRsi (c : Cond) (f : Bool) (rn rd : Reg) (op : RsiOp) (s : State) : Out :=
  whenPassed c s (dpRsi aluAnd f rn rd op)

def execAndRsr (c : Cond) (f : Bool) (rn rd : Reg) (op : RsrOp) (s : State) : Out :=
  whenPassed c s (dpRsr aluAnd f rn rd op)


/-- EOR (R186): `a EOR op2`, logical flags. -/
def execEorImm (c : Cond) (f : Bool) (rn rd : Reg) (op : ImmOp) (s : State) : Out :=
  whenPassed c s (dpImm aluEor f rn rd op)

def execEorRsi (c : Cond) (f : Bool) (rn rd : Reg) (op : RsiOp) (s : State) : Out :=
  whenPassed c s (dpRsi aluEor f rn rd op)

def execEorRsr (c : Cond) (f : Bool) (rn rd : Reg) (op : RsrOp) (s : State) : Out :=
  whenPassed c s (dpRsr aluEor f rn rd op)


/-- SUB (R187): `a - op2`. -/
def execSubImm (c : Cond) (f : Bool) (rn rd : Reg) (op : ImmOp) (s : State) : Out :=
  whenPassed c s (dpImm aluSub f rn rd op)

def execSubRsi (c : Cond) (f : Bool) (rn rd : Reg) (op : RsiOp) (s : State) : Out :=
  whenPassed c s (dpRsi aluSub f rn rd op)

def execSubRsr (c : Cond) (f : Bool) (rn rd : Reg) (op : RsrOp) (s : State) : Out :=
  whenPassed c s (dpRsr aluSub f rn rd op)


/-- RSB (R188): `op2 - a`. -/
def execRsbImm (c : Cond) (f : Bool) (rn rd : Reg) (op : ImmOp) (s : State) : Out :=
  whenPassed c s (dpImm aluRsb f rn rd op)

def execRsbRsi (c : Cond) (f : Bool) (rn rd : Reg) (op : RsiOp) (s : State) : Out :=
  whenPassed c s (dpRsi aluRsb f rn rd op)

def execRsbRsr (c : Cond) (f : Bool) (rn rd : Reg) (op : RsrOp) (s : State) : Out :=
  whenPassed c s (dpRsr aluRsb f rn rd op)


/-- ADD (R189): `a + op2`. -/
def execAddImm (c : Cond) (f : Bool) (rn rd : Reg) (op : ImmOp) (s : State) : Out :=
  whenPassed c s (dpImm aluAdd f rn rd op)

def execAddRsi (c : Cond) (f : Bool) (rn rd : Reg) (op : RsiOp) (s : State) : Out :=
  whenPassed c s (dpRsi aluAdd f rn rd op)

def execAddRsr (c : Cond) (f : Bool) (rn rd : Reg) (op : RsrOp) (s : State) : Out :=
  whenPassed c s (dpRsr aluAdd f rn rd op)


/-- ADC (R190): `a + op2 + C`. -/
def execAdcImm (c : Cond) (f : Bool) (rn rd : Reg) (op : ImmOp) (s : State) : Out :=
  whenPassed c s (dpImm aluAdc f rn rd op)

def execAdcRsi (c : Cond) (f : Bool) (rn rd : Reg) (op : RsiOp) (s : State) : Out :=
  whenPassed c s (dpRsi aluAdc f rn rd op)

def execAdcRsr (c : Cond) (f : Bool) (rn rd : Reg) (op : RsrOp) (s : State) : Out :=
  whenPassed c s (dpRsr aluAdc f rn rd op)


/-- SBC (R191): `a - op2 - (1 - C)`. -/
def execSbcImm (c : Cond) (f : Bool) (rn rd : Reg) (op : ImmOp) (s : State) : Out :=
  whenPassed c s (dpImm aluSbc f rn rd op)

def execSbcRsi (c : Cond) (f : Bool) (rn rd : Reg) (op : RsiOp) (s : State) : Out :=
  whenPassed c s (dpRsi aluSbc f rn rd op)

def execSbcRsr (c : Cond) (f : Bool) (rn rd : Reg) (op : RsrOp) (s : State) : Out :=
  whenPassed c s (dpRsr aluSbc f rn rd op)


/-- RSC (R192): `op2 - a - (1 - C)`. -/
def execRscImm (c : Cond) (f : Bool) (rn rd : Reg) (op : ImmOp) (s : State) : Out :=
  whenPassed c s (dpImm aluRsc f rn rd op)

def execRscRsi (c : Cond) (f : Bool) (rn rd : Reg) (op : RsiOp) (s : State) : Out :=
  whenPassed c s (dpRsi aluRsc f rn rd op)

def execRscRsr (c : Cond) (f : Bool) (rn rd : Reg) (op : RsrOp) (s : State) : Out :=
  whenPassed c s (dpRsr aluRsc f rn rd op)


/-- TST (R193): the flags of `a AND op2`. -/
def execTstImm (c : Cond) (rn : Reg) (op : ImmOp) (s : State) : Out :=
  whenPassed c s (cmpImm aluAnd rn op)

def execTstRsi (c : Cond) (rn : Reg) (op : RsiOp) (s : State) : Out :=
  whenPassed c s (cmpRsi aluAnd rn op)

def execTstRsr (c : Cond) (rn : Reg) (op : RsrOp) (s : State) : Out :=
  whenPassed c s (cmpRsr aluAnd rn op)


/-- TEQ (R194): the flags of `a EOR op2`. -/
def execTeqImm (c : Cond) (rn : Reg) (op : ImmOp) (s : State) : Out :=
  whenPassed c s (cmpImm aluEor rn op)

def execTeqRsi (c : Cond) (rn : Reg) (op : RsiOp) (s : State) : Out :=
  whenPassed c s (cmpRsi aluEor rn op)

def execTeqRsr (c : Cond) (rn : Reg) (op : RsrOp) (s : State) : Out :=
  whenPassed c s (cmpRsr aluEor rn op)


/-- CMP (R195): the flags of `a - op2`. -/
def execCmpImm (c : Cond) (rn : Reg) (op : ImmOp) (s : State) : Out :=
  whenPassed c s (cmpImm aluSub rn op)

def execCmpRsi (c : Cond) (rn : Reg) (op : RsiOp) (s : State) : Out :=
  whenPassed c s (cmpRsi aluSub rn op)

def execCmpRsr (c : Cond) (rn : Reg) (op : RsrOp) (s : State) : Out :=
  whenPassed c s (cmpRsr aluSub rn op)


/-- CMN (R196): the flags of `a + op2`. -/
def execCmnImm (c : Cond) (rn : Reg) (op : ImmOp) (s : State) : Out :=
  whenPassed c s (cmpImm aluAdd rn op)

def execCmnRsi (c : Cond) (rn : Reg) (op : RsiOp) (s : State) : Out :=
  whenPassed c s (cmpRsi aluAdd rn op)

def execCmnRsr (c : Cond) (rn : Reg) (op : RsrOp) (s : State) : Out :=
  whenPassed c s (cmpRsr aluAdd rn op)


/-- ORR (R197): `a OR op2`, logical flags. -/
def execOrrImm (c : Cond) (f : Bool) (rn rd : Reg) (op : ImmOp) (s : State) : Out :=
  whenPassed c s (dpImm aluOrr f rn rd op)

def execOrrRsi (c : Cond) (f : Bool) (rn rd : Reg) (op : RsiOp) (s : State) : Out :=
  whenPassed c s (dpRsi aluOrr f rn rd op)

def execOrrRsr (c : Cond) (f : Bool) (rn rd : Reg) (op : RsrOp) (s : State) : Out :=
  whenPassed c s (dpRsr aluOrr f rn rd op)


/-- MOV (R198): `op2`, logical flags. -/
def execMovImm (c : Cond) (f : Bool) (rd : Reg) (op : ImmOp) (s : State) : Out :=
  whenPassed c s (movImm aluMov f rd op)

def execMovRsi (c : Cond) (f : Bool) (rd : Reg) (op : RsiOp) (s : State) : Out :=
  whenPassed c s (movRsi aluMov f rd op)

def execMovRsr (c : Cond) (f : Bool) (rd : Reg) (op : RsrOp) (s : State) : Out :=
  whenPassed c s (movRsr aluMov f rd op)


/-- BIC (R199): `a AND NOT op2`, logical flags. -/
def execBicImm (c : Cond) (f : Bool) (rn rd : Reg) (op : ImmOp) (s : State) : Out :=
  whenPassed c s (dpImm aluBic f rn rd op)

def execBicRsi (c : Cond) (f : Bool) (rn rd : Reg) (op : RsiOp) (s : State) : Out :=
  whenPassed c s (dpRsi aluBic f rn rd op)

def execBicRsr (c : Cond) (f : Bool) (rn rd : Reg) (op : RsrOp) (s : State) : Out :=
  whenPassed c s (dpRsr aluBic f rn rd op)


/-- MVN (R200): `NOT op2`, logical flags. -/
def execMvnImm (c : Cond) (f : Bool) (rd : Reg) (op : ImmOp) (s : State) : Out :=
  whenPassed c s (movImm aluMvn f rd op)

def execMvnRsi (c : Cond) (f : Bool) (rd : Reg) (op : RsiOp) (s : State) : Out :=
  whenPassed c s (movRsi aluMvn f rd op)

def execMvnRsr (c : Cond) (f : Bool) (rd : Reg) (op : RsrOp) (s : State) : Out :=
  whenPassed c s (movRsr aluMvn f rd op)

end Sys2Proof.Machine
end

