-- ==== Sys2Proof/Machine/Exception.lean ====
section
/-! DEFINITION. The instructions that take an exception: SWI and BKPT (60_exceptions.md R338 to R340). -/

namespace Sys2Proof.Machine

/-- SWI (R339): into svc mode at offset 0x08. immed_24 is not interpreted. -/
def execSwi (c : Cond) (_imm : BitVec 24) (s : State) : Out :=
  whenPassed c s fun s => .next (s.takeException .svc 0x08)

/-- BKPT (R340): into abt mode at offset 0x0C. A condition other than AL that passes is a wrong should-be field;
the decoder answers such a word before it becomes an instruction, so this arm is for ill-formed terms only. -/
def execBkpt (c : Cond) (_imm : BitVec 16) (s : State) : Out :=
  whenPassed c s fun s =>
    if c != .al then refuse .shouldBeField s else .next (s.takeException .abt 0x0C)

end Sys2Proof.Machine
end

