-- ==== Sys2Proof/Machine/LoadStore.lean ====
section
/-! DEFINITION. Single loads and stores and the swaps (45_load_store.md R250 to R268): the transfers all forms share,
and one meaning for each row. -/

namespace Sys2Proof.Machine

/-! ### The transfers. The refusals come first, then the decode-time write-back (40_dispatch.md R159), then the
access, then the register write. `priv` is the privilege of the access (R256). -/

/-- A word load (R252): a loaded PC has its low two bits cleared. -/
def ldrWord (priv : Bool) (rn rd : Reg) (t : Transfer) (s : State) : Out :=
  if t.backToPc rn then refuse .unpredictable s
  else andThen (loadWord t.addr priv (writeBack rn t s)) fun r =>
    .next (r.2.finishWith rd (if rd = 15 then r.1 &&& 0xFFFFFFFC#32 else r.1))

/-- A word store (R253): the data is read before the write-back; r15 stores A + 8. -/
def strWord (priv : Bool) (rn rd : Reg) (t : Transfer) (s : State) : Out :=
  if t.backToPc rn || t.backToData rn rd then refuse .unpredictable s
  else andThen (memWrite t.addr .word (s.readReg rd) priv (writeBack rn t s)) fun s' => .next s'.advance

/-- A load narrower than a word into a register that is not the PC (R254, R262, R264, R265), extended by `ext`. -/
def ldrNarrow (n : Width) (ext : Word → Word) (priv : Bool) (rn rd : Reg) (t : Transfer) (s : State) : Out :=
  if t.backToPc rn || rd == 15 then refuse .unpredictable s
  else andThen (memRead t.addr n .read priv (writeBack rn t s)) fun r => .next (r.2.writeReg rd (ext r.1)).advance

/-- A store narrower than a word of a register that is not the PC (R255, R263). -/
def strNarrow (n : Width) (priv : Bool) (rn rd : Reg) (t : Transfer) (s : State) : Out :=
  if t.backToPc rn || t.backToData rn rd || rd == 15 then refuse .unpredictable s
  else andThen (memWrite t.addr n (s.readReg rd) priv (writeBack rn t s)) fun s' => .next s'.advance

/-- A register offset from r15 is refused (R250, R261). -/
def unlessPcOffset (rm : Reg) (s : State) (k : Out) : Out := if rm == 15 then refuse .unpredictable s else k

/-- The restrictions every addressing-mode-3 row shares (R261). -/
def unlessHalfRefused (p w : Bool) (rd : Reg) (s : State) (k : Out) : Out :=
  if halfRefused p w rd then refuse .unpredictable s else k

/-- Sign extension of a loaded byte (R264) and halfword (R265). -/
def signByte (v : Word) : Word := (v.extractLsb' 0 8).signExtend 32

def signHalf (v : Word) : Word := (v.extractLsb' 0 16).signExtend 32

/-- SWP and SWPB (R266, R267): the read, then the write, then the register write; Rm is read at decode time. -/
def swap (n : Width) (rn rd rm : Reg) (s : State) : Out :=
  if rd == 15 || rm == 15 || rn == 15 || rn == rm || rn == rd then refuse .unpredictable s
  else andThen (memRead (s.readReg rn) n .read s.privileged s) fun r =>
    andThen (memWrite (s.readReg rn) n (s.readReg rm) s.privileged r.2) fun s' =>
      .next (s'.writeReg rd r.1).advance

/-! ### Addressing mode 2 (word and unsigned byte) -/

/-- LDR (R252), immediate offset, pre-indexed. -/
def execLdrImmPre (c : Cond) (u w : Bool) (rn rd : Reg) (off : BitVec 12) (s : State) : Out :=
  whenPassed c s fun s => ldrWord s.privileged rn rd (preIndexed u w (s.readReg rn) (offset12 off)) s

/-- LDR (R252), immediate offset, post-indexed. -/
def execLdrImmPost (c : Cond) (u : Bool) (rn rd : Reg) (off : BitVec 12) (s : State) : Out :=
  whenPassed c s fun s => ldrWord s.privileged rn rd (postIndexed u (s.readReg rn) (offset12 off)) s

/-- LDR (R252), register offset, pre-indexed. -/
def execLdrRegPre (c : Cond) (u w : Bool) (rn rd : Reg) (op : RsiOp) (s : State) : Out :=
  whenPassed c s fun s => unlessPcOffset op.rm s
    (ldrWord s.privileged rn rd (preIndexed u w (s.readReg rn) (offsetReg op s)) s)

/-- LDR (R252), register offset, post-indexed. -/
def execLdrRegPost (c : Cond) (u : Bool) (rn rd : Reg) (op : RsiOp) (s : State) : Out :=
  whenPassed c s fun s => unlessPcOffset op.rm s
    (ldrWord s.privileged rn rd (postIndexed u (s.readReg rn) (offsetReg op s)) s)

/-- STR (R253), immediate offset, pre-indexed. -/
def execStrImmPre (c : Cond) (u w : Bool) (rn rd : Reg) (off : BitVec 12) (s : State) : Out :=
  whenPassed c s fun s => strWord s.privileged rn rd (preIndexed u w (s.readReg rn) (offset12 off)) s

/-- STR (R253), immediate offset, post-indexed. -/
def execStrImmPost (c : Cond) (u : Bool) (rn rd : Reg) (off : BitVec 12) (s : State) : Out :=
  whenPassed c s fun s => strWord s.privileged rn rd (postIndexed u (s.readReg rn) (offset12 off)) s

/-- STR (R253), register offset, pre-indexed. -/
def execStrRegPre (c : Cond) (u w : Bool) (rn rd : Reg) (op : RsiOp) (s : State) : Out :=
  whenPassed c s fun s => unlessPcOffset op.rm s
    (strWord s.privileged rn rd (preIndexed u w (s.readReg rn) (offsetReg op s)) s)

/-- STR (R253), register offset, post-indexed. -/
def execStrRegPost (c : Cond) (u : Bool) (rn rd : Reg) (op : RsiOp) (s : State) : Out :=
  whenPassed c s fun s => unlessPcOffset op.rm s
    (strWord s.privileged rn rd (postIndexed u (s.readReg rn) (offsetReg op s)) s)

/-- LDRB (R254), immediate offset, pre-indexed. -/
def execLdrbImmPre (c : Cond) (u w : Bool) (rn rd : Reg) (off : BitVec 12) (s : State) : Out :=
  whenPassed c s fun s => ldrNarrow .byte id s.privileged rn rd (preIndexed u w (s.readReg rn) (offset12 off)) s

/-- LDRB (R254), immediate offset, post-indexed. -/
def execLdrbImmPost (c : Cond) (u : Bool) (rn rd : Reg) (off : BitVec 12) (s : State) : Out :=
  whenPassed c s fun s => ldrNarrow .byte id s.privileged rn rd (postIndexed u (s.readReg rn) (offset12 off)) s

/-- LDRB (R254), register offset, pre-indexed. -/
def execLdrbRegPre (c : Cond) (u w : Bool) (rn rd : Reg) (op : RsiOp) (s : State) : Out :=
  whenPassed c s fun s => unlessPcOffset op.rm s
    (ldrNarrow .byte id s.privileged rn rd (preIndexed u w (s.readReg rn) (offsetReg op s)) s)

/-- LDRB (R254), register offset, post-indexed. -/
def execLdrbRegPost (c : Cond) (u : Bool) (rn rd : Reg) (op : RsiOp) (s : State) : Out :=
  whenPassed c s fun s => unlessPcOffset op.rm s
    (ldrNarrow .byte id s.privileged rn rd (postIndexed u (s.readReg rn) (offsetReg op s)) s)

/-- STRB (R255), immediate offset, pre-indexed. -/
def execStrbImmPre (c : Cond) (u w : Bool) (rn rd : Reg) (off : BitVec 12) (s : State) : Out :=
  whenPassed c s fun s => strNarrow .byte s.privileged rn rd (preIndexed u w (s.readReg rn) (offset12 off)) s

/-- STRB (R255), immediate offset, post-indexed. -/
def execStrbImmPost (c : Cond) (u : Bool) (rn rd : Reg) (off : BitVec 12) (s : State) : Out :=
  whenPassed c s fun s => strNarrow .byte s.privileged rn rd (postIndexed u (s.readReg rn) (offset12 off)) s

/-- STRB (R255), register offset, pre-indexed. -/
def execStrbRegPre (c : Cond) (u w : Bool) (rn rd : Reg) (op : RsiOp) (s : State) : Out :=
  whenPassed c s fun s => unlessPcOffset op.rm s
    (strNarrow .byte s.privileged rn rd (preIndexed u w (s.readReg rn) (offsetReg op s)) s)

/-- STRB (R255), register offset, post-indexed. -/
def execStrbRegPost (c : Cond) (u : Bool) (rn rd : Reg) (op : RsiOp) (s : State) : Out :=
  whenPassed c s fun s => unlessPcOffset op.rm s
    (strNarrow .byte s.privileged rn rd (postIndexed u (s.readReg rn) (offsetReg op s)) s)

/-! ### The unprivileged forms (R256): post-indexed, the access made without privilege -/

/-- LDRT refuses Rd = 15 (R257). -/
def unlessPcLoad (rd : Reg) (s : State) (k : Out) : Out := if rd == 15 then refuse .unpredictable s else k

/-- LDRT (R257), immediate offset. -/
def execLdrtImm (c : Cond) (u : Bool) (rn rd : Reg) (off : BitVec 12) (s : State) : Out :=
  whenPassed c s fun s => unlessPcLoad rd s
    (ldrWord false rn rd (postIndexed u (s.readReg rn) (offset12 off)) s)

/-- LDRT (R257), register offset. -/
def execLdrtReg (c : Cond) (u : Bool) (rn rd : Reg) (op : RsiOp) (s : State) : Out :=
  whenPassed c s fun s => unlessPcLoad rd s (unlessPcOffset op.rm s
    (ldrWord false rn rd (postIndexed u (s.readReg rn) (offsetReg op s)) s))

/-- STRT (R258), immediate offset. -/
def execStrtImm (c : Cond) (u : Bool) (rn rd : Reg) (off : BitVec 12) (s : State) : Out :=
  whenPassed c s fun s => strWord false rn rd (postIndexed u (s.readReg rn) (offset12 off)) s

/-- STRT (R258), register offset. -/
def execStrtReg (c : Cond) (u : Bool) (rn rd : Reg) (op : RsiOp) (s : State) : Out :=
  whenPassed c s fun s => unlessPcOffset op.rm s
    (strWord false rn rd (postIndexed u (s.readReg rn) (offsetReg op s)) s)

/-- LDRBT (R259), immediate offset. -/
def execLdrbtImm (c : Cond) (u : Bool) (rn rd : Reg) (off : BitVec 12) (s : State) : Out :=
  whenPassed c s fun s => ldrNarrow .byte id false rn rd (postIndexed u (s.readReg rn) (offset12 off)) s

/-- LDRBT (R259), register offset. -/
def execLdrbtReg (c : Cond) (u : Bool) (rn rd : Reg) (op : RsiOp) (s : State) : Out :=
  whenPassed c s fun s => unlessPcOffset op.rm s
    (ldrNarrow .byte id false rn rd (postIndexed u (s.readReg rn) (offsetReg op s)) s)

/-- STRBT (R260), immediate offset. -/
def execStrbtImm (c : Cond) (u : Bool) (rn rd : Reg) (off : BitVec 12) (s : State) : Out :=
  whenPassed c s fun s => strNarrow .byte false rn rd (postIndexed u (s.readReg rn) (offset12 off)) s

/-- STRBT (R260), register offset. -/
def execStrbtReg (c : Cond) (u : Bool) (rn rd : Reg) (op : RsiOp) (s : State) : Out :=
  whenPassed c s fun s => unlessPcOffset op.rm s
    (strNarrow .byte false rn rd (postIndexed u (s.readReg rn) (offsetReg op s)) s)

/-! ### Addressing mode 3 (halfword and signed byte) -/

/-- LDRH (R262), immediate offset. -/
def execLdrhImm (c : Cond) (p u w : Bool) (rn rd : Reg) (off : BitVec 8) (s : State) : Out :=
  whenPassed c s fun s => unlessHalfRefused p w rd s
    (ldrNarrow .half id s.privileged rn rd (halfTransfer p u w (s.readReg rn) (offset8 off)) s)

/-- LDRH (R262), register offset. -/
def execLdrhReg (c : Cond) (p u w : Bool) (rn rd rm : Reg) (s : State) : Out :=
  whenPassed c s fun s => unlessHalfRefused p w rd s (unlessPcOffset rm s
    (ldrNarrow .half id s.privileged rn rd (halfTransfer p u w (s.readReg rn) (s.readReg rm)) s))

/-- STRH (R263), immediate offset. -/
def execStrhImm (c : Cond) (p u w : Bool) (rn rd : Reg) (off : BitVec 8) (s : State) : Out :=
  whenPassed c s fun s => unlessHalfRefused p w rd s
    (strNarrow .half s.privileged rn rd (halfTransfer p u w (s.readReg rn) (offset8 off)) s)

/-- STRH (R263), register offset. -/
def execStrhReg (c : Cond) (p u w : Bool) (rn rd rm : Reg) (s : State) : Out :=
  whenPassed c s fun s => unlessHalfRefused p w rd s (unlessPcOffset rm s
    (strNarrow .half s.privileged rn rd (halfTransfer p u w (s.readReg rn) (s.readReg rm)) s))

/-- LDRSB (R264), immediate offset. -/
def execLdrsbImm (c : Cond) (p u w : Bool) (rn rd : Reg) (off : BitVec 8) (s : State) : Out :=
  whenPassed c s fun s => unlessHalfRefused p w rd s
    (ldrNarrow .byte signByte s.privileged rn rd (halfTransfer p u w (s.readReg rn) (offset8 off)) s)

/-- LDRSB (R264), register offset. -/
def execLdrsbReg (c : Cond) (p u w : Bool) (rn rd rm : Reg) (s : State) : Out :=
  whenPassed c s fun s => unlessHalfRefused p w rd s (unlessPcOffset rm s
    (ldrNarrow .byte signByte s.privileged rn rd (halfTransfer p u w (s.readReg rn) (s.readReg rm)) s))

/-- LDRSH (R265), immediate offset. -/
def execLdrshImm (c : Cond) (p u w : Bool) (rn rd : Reg) (off : BitVec 8) (s : State) : Out :=
  whenPassed c s fun s => unlessHalfRefused p w rd s
    (ldrNarrow .half signHalf s.privileged rn rd (halfTransfer p u w (s.readReg rn) (offset8 off)) s)

/-- LDRSH (R265), register offset. -/
def execLdrshReg (c : Cond) (p u w : Bool) (rn rd rm : Reg) (s : State) : Out :=
  whenPassed c s fun s => unlessHalfRefused p w rd s (unlessPcOffset rm s
    (ldrNarrow .half signHalf s.privileged rn rd (halfTransfer p u w (s.readReg rn) (s.readReg rm)) s))

/-! ### Swap -/

/-- SWP (R266). -/
def execSwp (c : Cond) (rn rd rm : Reg) (s : State) : Out := whenPassed c s (swap .word rn rd rm)

/-- SWPB (R267). -/
def execSwpb (c : Cond) (rn rd rm : Reg) (s : State) : Out := whenPassed c s (swap .byte rn rd rm)

end Sys2Proof.Machine
end

