-- ==== Sys2Proof/Machine/Multiply.lean ====
section
/-! DEFINITION. The multiplies and CLZ (42_multiply_clz.md R210 to R217). -/

namespace Sys2Proof.Machine

/-! ### Register restrictions (R210) -/

def mulRefused (rd rs rm : Reg) : Bool := rd == 15 || rs == 15 || rm == 15 || rd == rm

def mlaRefused (rd rn rs rm : Reg) : Bool := mulRefused rd rs rm || rn == 15

def mullRefused (rdHi rdLo rs rm : Reg) : Bool :=
  rdHi == 15 || rdLo == 15 || rs == 15 || rm == 15 || rdHi == rdLo || rdHi == rm || rdLo == rm

/-! ### The ends (R210): the product, with S = 1 the N and Z flags, and the PC -/

def mulFinish (f : Bool) (rd : Reg) (p : Word) (s : State) : Out :=
  let s' := s.writeReg rd p
  .next (if f then s'.setFlags (mulFlags p s.flags) else s').advance

/-- A 64-bit product: RdLo, then RdHi (R213). -/
def mullFinish (f : Bool) (rdHi rdLo : Reg) (p : BitVec 64) (s : State) : Out :=
  let s' := (s.writeReg rdLo (p.extractLsb' 0 32)).writeReg rdHi (p.extractLsb' 32 32)
  .next (if f then s'.setFlags (mullFlags p s.flags) else s').advance

/-! ### Products -/

/-- The unsigned 64-bit product (R213). -/
def unsignedProduct (a b : Word) : BitVec 64 := a.setWidth 64 * b.setWidth 64

/-- The two's-complement 64-bit product (R215). -/
def signedProduct (a b : Word) : BitVec 64 := a.signExtend 64 * b.signExtend 64

/-- x[RdHi] : x[RdLo] (R214). -/
def accumulator (rdHi rdLo : Reg) (s : State) : BitVec 64 := s.readReg rdHi ++ s.readReg rdLo

/-- What the four long multiplies share: the restrictions, then the end with the product p. -/
def mull (f : Bool) (rdHi rdLo rs rm : Reg) (p : BitVec 64) (s : State) : Out :=
  if mullRefused rdHi rdLo rs rm then refuse .unpredictable s else mullFinish f rdHi rdLo p s

/-! ### Leading zeros -/

/-- 32 of zero, else 31 less the index of the highest set bit (R217). -/
def leadingZeros (v : Word) : Nat := if v = 0 then 32 else 31 - v.toNat.log2

/-! ### The instructions -/

/-- MUL (R211). -/
def execMul (c : Cond) (f : Bool) (rd rs rm : Reg) (s : State) : Out :=
  whenPassed c s fun s =>
    if mulRefused rd rs rm then refuse .unpredictable s
    else mulFinish f rd (s.readReg rm * s.readReg rs) s

/-- MLA (R212). -/
def execMla (c : Cond) (f : Bool) (rd rn rs rm : Reg) (s : State) : Out :=
  whenPassed c s fun s =>
    if mlaRefused rd rn rs rm then refuse .unpredictable s
    else mulFinish f rd (s.readReg rm * s.readReg rs + s.readReg rn) s

/-- UMULL (R213). -/
def execUmull (c : Cond) (f : Bool) (rdHi rdLo rs rm : Reg) (s : State) : Out :=
  whenPassed c s fun s => mull f rdHi rdLo rs rm (unsignedProduct (s.readReg rm) (s.readReg rs)) s

/-- UMLAL (R214). -/
def execUmlal (c : Cond) (f : Bool) (rdHi rdLo rs rm : Reg) (s : State) : Out :=
  whenPassed c s fun s =>
    mull f rdHi rdLo rs rm (unsignedProduct (s.readReg rm) (s.readReg rs) + accumulator rdHi rdLo s) s

/-- SMULL (R215). -/
def execSmull (c : Cond) (f : Bool) (rdHi rdLo rs rm : Reg) (s : State) : Out :=
  whenPassed c s fun s => mull f rdHi rdLo rs rm (signedProduct (s.readReg rm) (s.readReg rs)) s

/-- SMLAL (R216). -/
def execSmlal (c : Cond) (f : Bool) (rdHi rdLo rs rm : Reg) (s : State) : Out :=
  whenPassed c s fun s =>
    mull f rdHi rdLo rs rm (signedProduct (s.readReg rm) (s.readReg rs) + accumulator rdHi rdLo s) s

/-- CLZ (R217). -/
def execClz (c : Cond) (rd rm : Reg) (s : State) : Out :=
  whenPassed c s fun s =>
    if rd == 15 || rm == 15 then refuse .unpredictable s
    else .next (s.writeReg rd (BitVec.ofNat 32 (leadingZeros (s.readReg rm)))).advance

end Sys2Proof.Machine
end

