-- ==== Sys2Proof/Machine/Status.lean ====
section
/-! DEFINITION. Status-register transfer: MRS and MSR (43_status_register.md R230 to R234). -/

namespace Sys2Proof.Machine

/-- The byte mask of a field mask: c, x, s and f select bytes 0 to 3 (R231). -/
def byteMask (m : BitVec 4) : Word :=
  (if m.getLsbD 3 then 0xFF#8 else 0) ++ (if m.getLsbD 2 then 0xFF#8 else 0) ++
    (if m.getLsbD 1 then 0xFF#8 else 0) ++ (if m.getLsbD 0 then 0xFF#8 else 0)

/-- The value an MSR leaves: the masked bytes from the operand, the others from the old value (R232, R234). -/
def merged (old op mask : Word) : Word := (old &&& ~~~mask) ||| (op &&& mask)

/-- The reserved status bits, 27:8 (10_state.md R29). -/
def reservedStatus : Word := 0x0FFFFF00#32

/-- The CPSR write with its refusals (R232, R233). -/
def msrCpsr (op : Word) (mask : BitVec 4) (s : State) : Out :=
  let new := merged s.cpsr op (byteMask mask)
  if s.mode == .usr && mask.getLsbD 0 then refuse .userControlWrite s
  else if !statusValid new then refuse .badStatusValue s
  else .next { s with cpsr := new }.advance

/-- The SPSR write with its refusal (R234); `old` is the SPSR of the current mode, which may hold an invalid draw. A
field mask of 0 writes nothing and is legal (R231), so the value is not looked at. DESIGN CHOICE (log 15): R234's
check on `new` would refuse it. -/
def msrSpsr (old op : Word) (mask : BitVec 4) (s : State) : Out :=
  let new := merged old op (byteMask mask)
  if mask != 0 && !statusValid new then refuse .badStatusValue s else .next (s.writeSpsr new).advance

/-- MSR of an operand value (R231): NoSpsr, then the reserved bits, then `pcOperand` (Rm = 15 in the register
form), then the write's own checks. The place of the Rm = 15 refusal is DEDUCED (log 9). -/
def msr (r : Bool) (mask : BitVec 4) (op : Word) (pcOperand : Bool) (s : State) : Out :=
  match r, s.readSpsr with
  | true, none => raise (.protocolViolation .noSpsr) s
  | true, some old =>
    if op &&& byteMask mask &&& reservedStatus != 0 then raise (.protocolViolation .reservedStatusBits) s
    else if pcOperand then refuse .unpredictable s
    else msrSpsr old op mask s
  | false, _ =>
    if op &&& byteMask mask &&& reservedStatus != 0 then raise (.protocolViolation .reservedStatusBits) s
    else if pcOperand then refuse .unpredictable s
    else msrCpsr op mask s

/-- The end of MRS: Rd = 15 is refused (R230). -/
def mrsFinish (rd : Reg) (v : Word) (s : State) : Out :=
  if rd == 15 then refuse .unpredictable s else .next (s.writeReg rd v).advance

/-- MRS (R230): CPSR with R = 0, the current mode's SPSR with R = 1. -/
def execMrs (c : Cond) (r : Bool) (rd : Reg) (s : State) : Out :=
  whenPassed c s fun s =>
    if r then
      match s.readSpsr with
      | none => raise (.protocolViolation .noSpsr) s
      | some p => mrsFinish rd p s
    else mrsFinish rd s.cpsr s

/-- MSR, immediate form (R231). -/
def execMsrImm (c : Cond) (r : Bool) (mask : BitVec 4) (op : ImmOp) (s : State) : Out :=
  whenPassed c s (msr r mask (immValue op) false)

/-- MSR, register form (R231). -/
def execMsrReg (c : Cond) (r : Bool) (mask : BitVec 4) (rm : Reg) (s : State) : Out :=
  whenPassed c s fun s => msr r mask (s.readReg rm) (rm == 15) s

end Sys2Proof.Machine
end

