-- ==== Sys2Proof/Machine/Dispatch.lean ====
section
/-! DEFINITION. The dispatcher (40_dispatch.md R160): one arm for each row of spec/opcode_table.json, in the table's
order, each a call of that row's meaning. -/

namespace Sys2Proof.Machine

def exec (i : Instr) (s : State) : Host.Outcome State Fault Refusal :=
  match i with
  | .mrs c r rd => Sys2Proof.Machine.execMrs c r rd s
  | .msrReg c r mask rm => Sys2Proof.Machine.execMsrReg c r mask rm s
  | .bx c rm => Sys2Proof.Machine.execBx c rm s
  | .blxReg c rm => Sys2Proof.Machine.execBlxReg c rm s
  | .clz c rd rm => Sys2Proof.Machine.execClz c rd rm s
  | .bkpt c imm => Sys2Proof.Machine.execBkpt c imm s
  | .mul c f rd rs rm => Sys2Proof.Machine.execMul c f rd rs rm s
  | .mla c f rd rn rs rm => Sys2Proof.Machine.execMla c f rd rn rs rm s
  | .umull c f rdHi rdLo rs rm => Sys2Proof.Machine.execUmull c f rdHi rdLo rs rm s
  | .umlal c f rdHi rdLo rs rm => Sys2Proof.Machine.execUmlal c f rdHi rdLo rs rm s
  | .smull c f rdHi rdLo rs rm => Sys2Proof.Machine.execSmull c f rdHi rdLo rs rm s
  | .smlal c f rdHi rdLo rs rm => Sys2Proof.Machine.execSmlal c f rdHi rdLo rs rm s
  | .swp c rn rd rm => Sys2Proof.Machine.execSwp c rn rd rm s
  | .swpb c rn rd rm => Sys2Proof.Machine.execSwpb c rn rd rm s
  | .strhImm c p u w rn rd off => Sys2Proof.Machine.execStrhImm c p u w rn rd off s
  | .strhReg c p u w rn rd rm => Sys2Proof.Machine.execStrhReg c p u w rn rd rm s
  | .ldrhImm c p u w rn rd off => Sys2Proof.Machine.execLdrhImm c p u w rn rd off s
  | .ldrhReg c p u w rn rd rm => Sys2Proof.Machine.execLdrhReg c p u w rn rd rm s
  | .ldrsbImm c p u w rn rd off => Sys2Proof.Machine.execLdrsbImm c p u w rn rd off s
  | .ldrsbReg c p u w rn rd rm => Sys2Proof.Machine.execLdrsbReg c p u w rn rd rm s
  | .ldrshImm c p u w rn rd off => Sys2Proof.Machine.execLdrshImm c p u w rn rd off s
  | .ldrshReg c p u w rn rd rm => Sys2Proof.Machine.execLdrshReg c p u w rn rd rm s
  | .msrImm c r mask op => Sys2Proof.Machine.execMsrImm c r mask op s
  | .andImm c f rn rd op => Sys2Proof.Machine.execAndImm c f rn rd op s
  | .andRsi c f rn rd op => Sys2Proof.Machine.execAndRsi c f rn rd op s
  | .andRsr c f rn rd op => Sys2Proof.Machine.execAndRsr c f rn rd op s
  | .eorImm c f rn rd op => Sys2Proof.Machine.execEorImm c f rn rd op s
  | .eorRsi c f rn rd op => Sys2Proof.Machine.execEorRsi c f rn rd op s
  | .eorRsr c f rn rd op => Sys2Proof.Machine.execEorRsr c f rn rd op s
  | .subImm c f rn rd op => Sys2Proof.Machine.execSubImm c f rn rd op s
  | .subRsi c f rn rd op => Sys2Proof.Machine.execSubRsi c f rn rd op s
  | .subRsr c f rn rd op => Sys2Proof.Machine.execSubRsr c f rn rd op s
  | .rsbImm c f rn rd op => Sys2Proof.Machine.execRsbImm c f rn rd op s
  | .rsbRsi c f rn rd op => Sys2Proof.Machine.execRsbRsi c f rn rd op s
  | .rsbRsr c f rn rd op => Sys2Proof.Machine.execRsbRsr c f rn rd op s
  | .addImm c f rn rd op => Sys2Proof.Machine.execAddImm c f rn rd op s
  | .addRsi c f rn rd op => Sys2Proof.Machine.execAddRsi c f rn rd op s
  | .addRsr c f rn rd op => Sys2Proof.Machine.execAddRsr c f rn rd op s
  | .adcImm c f rn rd op => Sys2Proof.Machine.execAdcImm c f rn rd op s
  | .adcRsi c f rn rd op => Sys2Proof.Machine.execAdcRsi c f rn rd op s
  | .adcRsr c f rn rd op => Sys2Proof.Machine.execAdcRsr c f rn rd op s
  | .sbcImm c f rn rd op => Sys2Proof.Machine.execSbcImm c f rn rd op s
  | .sbcRsi c f rn rd op => Sys2Proof.Machine.execSbcRsi c f rn rd op s
  | .sbcRsr c f rn rd op => Sys2Proof.Machine.execSbcRsr c f rn rd op s
  | .rscImm c f rn rd op => Sys2Proof.Machine.execRscImm c f rn rd op s
  | .rscRsi c f rn rd op => Sys2Proof.Machine.execRscRsi c f rn rd op s
  | .rscRsr c f rn rd op => Sys2Proof.Machine.execRscRsr c f rn rd op s
  | .tstImm c rn op => Sys2Proof.Machine.execTstImm c rn op s
  | .tstRsi c rn op => Sys2Proof.Machine.execTstRsi c rn op s
  | .tstRsr c rn op => Sys2Proof.Machine.execTstRsr c rn op s
  | .teqImm c rn op => Sys2Proof.Machine.execTeqImm c rn op s
  | .teqRsi c rn op => Sys2Proof.Machine.execTeqRsi c rn op s
  | .teqRsr c rn op => Sys2Proof.Machine.execTeqRsr c rn op s
  | .cmpImm c rn op => Sys2Proof.Machine.execCmpImm c rn op s
  | .cmpRsi c rn op => Sys2Proof.Machine.execCmpRsi c rn op s
  | .cmpRsr c rn op => Sys2Proof.Machine.execCmpRsr c rn op s
  | .cmnImm c rn op => Sys2Proof.Machine.execCmnImm c rn op s
  | .cmnRsi c rn op => Sys2Proof.Machine.execCmnRsi c rn op s
  | .cmnRsr c rn op => Sys2Proof.Machine.execCmnRsr c rn op s
  | .orrImm c f rn rd op => Sys2Proof.Machine.execOrrImm c f rn rd op s
  | .orrRsi c f rn rd op => Sys2Proof.Machine.execOrrRsi c f rn rd op s
  | .orrRsr c f rn rd op => Sys2Proof.Machine.execOrrRsr c f rn rd op s
  | .movImm c f rd op => Sys2Proof.Machine.execMovImm c f rd op s
  | .movRsi c f rd op => Sys2Proof.Machine.execMovRsi c f rd op s
  | .movRsr c f rd op => Sys2Proof.Machine.execMovRsr c f rd op s
  | .bicImm c f rn rd op => Sys2Proof.Machine.execBicImm c f rn rd op s
  | .bicRsi c f rn rd op => Sys2Proof.Machine.execBicRsi c f rn rd op s
  | .bicRsr c f rn rd op => Sys2Proof.Machine.execBicRsr c f rn rd op s
  | .mvnImm c f rd op => Sys2Proof.Machine.execMvnImm c f rd op s
  | .mvnRsi c f rd op => Sys2Proof.Machine.execMvnRsi c f rd op s
  | .mvnRsr c f rd op => Sys2Proof.Machine.execMvnRsr c f rd op s
  | .strImmPre c u w rn rd off => Sys2Proof.Machine.execStrImmPre c u w rn rd off s
  | .strImmPost c u rn rd off => Sys2Proof.Machine.execStrImmPost c u rn rd off s
  | .strtImm c u rn rd off => Sys2Proof.Machine.execStrtImm c u rn rd off s
  | .strRegPre c u w rn rd op => Sys2Proof.Machine.execStrRegPre c u w rn rd op s
  | .strRegPost c u rn rd op => Sys2Proof.Machine.execStrRegPost c u rn rd op s
  | .strtReg c u rn rd op => Sys2Proof.Machine.execStrtReg c u rn rd op s
  | .ldrImmPre c u w rn rd off => Sys2Proof.Machine.execLdrImmPre c u w rn rd off s
  | .ldrImmPost c u rn rd off => Sys2Proof.Machine.execLdrImmPost c u rn rd off s
  | .ldrtImm c u rn rd off => Sys2Proof.Machine.execLdrtImm c u rn rd off s
  | .ldrRegPre c u w rn rd op => Sys2Proof.Machine.execLdrRegPre c u w rn rd op s
  | .ldrRegPost c u rn rd op => Sys2Proof.Machine.execLdrRegPost c u rn rd op s
  | .ldrtReg c u rn rd op => Sys2Proof.Machine.execLdrtReg c u rn rd op s
  | .strbImmPre c u w rn rd off => Sys2Proof.Machine.execStrbImmPre c u w rn rd off s
  | .strbImmPost c u rn rd off => Sys2Proof.Machine.execStrbImmPost c u rn rd off s
  | .strbtImm c u rn rd off => Sys2Proof.Machine.execStrbtImm c u rn rd off s
  | .strbRegPre c u w rn rd op => Sys2Proof.Machine.execStrbRegPre c u w rn rd op s
  | .strbRegPost c u rn rd op => Sys2Proof.Machine.execStrbRegPost c u rn rd op s
  | .strbtReg c u rn rd op => Sys2Proof.Machine.execStrbtReg c u rn rd op s
  | .ldrbImmPre c u w rn rd off => Sys2Proof.Machine.execLdrbImmPre c u w rn rd off s
  | .ldrbImmPost c u rn rd off => Sys2Proof.Machine.execLdrbImmPost c u rn rd off s
  | .ldrbtImm c u rn rd off => Sys2Proof.Machine.execLdrbtImm c u rn rd off s
  | .ldrbRegPre c u w rn rd op => Sys2Proof.Machine.execLdrbRegPre c u w rn rd op s
  | .ldrbRegPost c u rn rd op => Sys2Proof.Machine.execLdrbRegPost c u rn rd op s
  | .ldrbtReg c u rn rd op => Sys2Proof.Machine.execLdrbtReg c u rn rd op s
  | .stm1 c p u w rn list => Sys2Proof.Machine.execStm1 c p u w rn list s
  | .stm2 c p u w rn list => Sys2Proof.Machine.execStm2 c p u w rn list s
  | .ldm1 c p u w rn list => Sys2Proof.Machine.execLdm1 c p u w rn list s
  | .ldm2 c p u w rn list => Sys2Proof.Machine.execLdm2 c p u w rn list s
  | .ldm3 c p u w rn list => Sys2Proof.Machine.execLdm3 c p u w rn list s
  | .b c off => Sys2Proof.Machine.execB c off s
  | .bl c off => Sys2Proof.Machine.execBl c off s
  | .mcr c op1 crn rd cp op2 crm => Sys2Proof.Machine.execMcr c op1 crn rd cp op2 crm s
  | .mrc c op1 crn rd cp op2 crm => Sys2Proof.Machine.execMrc c op1 crn rd cp op2 crm s
  | .swi c imm => Sys2Proof.Machine.execSwi c imm s

end Sys2Proof.Machine
end

