-- ==== Sys2Proof/Machine/Tick.lean ====
section
/-! DEFINITION. One tick (40_dispatch.md R150 to R157): fetch, reserved condition, condition, table lookup, class,
should-be fields, then the instruction. -/

namespace Sys2Proof.Machine

/-- The row's class is implemented: core, or a class in IMPLEMENTED_EXTRA (R157). -/
def implemented (e : ExtraClasses) : InstrClass → Bool
  | .core => true
  | .sbcRsc => e.sbcRsc
  | .mul => e.mul
  | .mull => e.mull
  | .clz => e.clz
  | .swp => e.swp
  | .ldrtStrt => e.ldrtStrt
  | .blxReg => e.blxReg
  | .swi => e.swi
  | .bkpt => e.bkpt

/-- What a word whose condition passes does (R155 to R157). -/
def runDecoded (w : Word) (s : State) : Out :=
  match decode w with
  | .reservedCondition => raise (.reservedCondition w s.pc) s
  | .noRow => raise (.undefinedInstruction w s.pc) s
  | .shouldBeField cls =>
    if implemented s.params.extra cls then refuse .shouldBeField s else raise (.undefinedInstruction w s.pc) s
  | .instr i =>
    if implemented s.params.extra i.cls then exec i s else raise (.undefinedInstruction w s.pc) s

/-- What a fetched word does (R150, R152, R154). -/
def runWord (w : Word) (s : State) : Out :=
  if condField w == 0b1111#4 then raise (.reservedCondition w s.pc) s
  else if Cond.passes (condAt w) s.flags then runDecoded w s
  else .next s.advance

/-- One tick of the core (R150). A stopped core's tick changes nothing (R151). -/
def tick (s : State) : Out :=
  match s.stop with
  | .running => andThen (fetch s) fun r => runWord r.1 r.2
  | _ => .next s

/-- The physical address the next fetch reads; the raw PC itself where its translation stops. -/
def fetchAddr (s : State) : Word :=
  match translate s.pc .execute s.privileged s with
  | .next pa => pa
  | _ => s.pc

/-- The state with a word placed where the next fetch reads it. -/
def placeWord (s : State) (w : Word) : State := { s with mem := s.mem.store (fetchAddr s) w .word }

end Sys2Proof.Machine
end

