-- ==== Sys2Proof/Machine/Step.lean ====
section
/-! DEFINITION. The step of the machine, and the placing of the next instruction. -/

namespace Sys2Proof.Machine

/-- One step is one tick (00_scope.md R6, 40_dispatch.md R150). -/
def step (s : State) : Host.Outcome State Fault Refusal := tick s

/-- `s` with the instruction word of `nbits` bits, numbered as spec/opcode_table.json numbers them, stored where
`step` fetches its next instruction. The loader, outside the core, does this to INIT_MEM (00_scope.md R4, log 7). -/
def State.withFetchWord (s : State) (nbits w : Nat) : State := placeWord s (BitVec.ofNat 32 (w % 2 ^ nbits))

end Sys2Proof.Machine
end

