-- ==== Sys2Proof/Safety.lean ====
section
/-! DEFINITION. What claims are stated in: the invariant of the state, the launches the spec allows, what a run of the
host ends in, and what it means that an instruction leaves a part of the state as it was. -/

namespace Sys2Proof.Machine

/-! ### The invariant -/

/-- Bits 27:8 of a status register are zero (10_state.md R29). -/
abbrev ReservedZero (p : Word) : Prop := p &&& reservedStatus = 0

/-- What holds of the core at every moment: memory in its canonical form, CPSR with bits 27:8 zero, T = 0 and a
valid mode (R21, R29, R31), every SPSR with bits 27:8 zero (R29), Control.B = 0 (R41). -/
abbrev State.Inv (s : State) : Prop :=
  s.mem.wf ∧ ReservedZero s.cpsr ∧ statusValid s.cpsr = true ∧
    (ReservedZero s.spsr.fiq ∧ ReservedZero s.spsr.irq ∧ ReservedZero s.spsr.svc ∧ ReservedZero s.spsr.abt ∧
      ReservedZero s.spsr.und) ∧
    s.cp15.control.getLsbD 7 = false

/-- The launches 00_scope.md R9 allows: bits 0, 1, 7, 8, 9, 13 and 22 of CP15_CONTROL_RESET zero, disjoint device
ranges, an image in canonical form, and SPSR draws with bits 27:8 zero (R29). -/
abbrev Launch.ok (l : Launch) : Prop :=
  l.mem.wf ∧ l.controlReset &&& 0x00402383#32 = 0 ∧
    (ReservedZero l.spsr.fiq ∧ ReservedZero l.spsr.irq ∧ ReservedZero l.spsr.svc ∧ ReservedZero l.spsr.abt ∧
      ReservedZero l.spsr.und) ∧
    l.params.peripherals.Pairwise (fun d e => d.last < e.first ∨ e.last < d.first)

/-! ### Runs -/

/-- The host's stop at HALT_PC (70_reset_and_hazards.md R362): a running core whose raw PC is the stop address. -/
abbrev HaltedAt (haltPc : Word) (s : State) : Prop := s.stop = .running ∧ s.pc = haltPc

/-- The state in which the host finds the core after `n` ticks: none of them stopped the core, and none of them started
at HALT_PC, where the host stops calling `tick()` (R362). -/
def RunsTo (l : Launch) (haltPc : Word) (n : Nat) (s : State) : Prop :=
  Sys2Proof.core.run n (State.resetWith l) = .next s ∧
    ∀ k, k < n → ∀ t, Sys2Proof.core.run k (State.resetWith l) = .next t → ¬HaltedAt haltPc t

/-- A run that ends well (R362 (a)): the raw PC is HALT_PC after `n` ticks, and not before. -/
def EndsWell (l : Launch) (haltPc : Word) (n : Nat) : Prop := ∃ s, RunsTo l haltPc n s ∧ HaltedAt haltPc s

/-- A failed run (R362 (b)): the tick after `n` ticks faults, before HALT_PC is reached. -/
def EndsInFault (l : Launch) (haltPc : Word) (n : Nat) (f : Fault) : Prop :=
  ∃ s, RunsTo l haltPc n s ∧ ¬HaltedAt haltPc s ∧ step s = .fault f

/-- An unprovable run (R362 (c)): the tick after `n` ticks is refused, before HALT_PC is reached. -/
def EndsRefused (l : Launch) (haltPc : Word) (n : Nat) (q : Refusal) : Prop :=
  ∃ s, RunsTo l haltPc n s ∧ ¬HaltedAt haltPc s ∧ step s = .refused q

/-- The state a stopped core is left in. -/
def Fault.left : Fault → State
  | .undefinedInstruction _ _ s => s
  | .reservedCondition _ _ s => s
  | .translation _ _ _ s => s
  | .domain _ _ _ _ s => s
  | .permission _ _ _ _ _ s => s
  | .alignment _ _ _ s => s
  | .protocolViolation _ s => s

/-- The state a refused tick leaves; none where the instruction has no meaning, which no arm of this model answers. -/
def Refusal.left : Refusal → Option State
  | .shouldBeField s => some s
  | .unpredictable s => some s
  | .badSpsrRestore s => some s
  | .badStatusValue s => some s
  | .userControlWrite s => some s
  | .thumbUnsupported s => some s
  | .bigEndianUnsupported s => some s
  | .userModeCP15 s => some s
  | .apSR11 s => some s
  | .subWordPeripheral s => some s
  | _ => none

/-! ### What is left as it was -/

/-- Every general-register cell but the listed ones holds what it held. -/
def SameRegsBut (cells : List Cell) (s t : State) : Prop := ∀ c, c ∉ cells → t.regs.get c = s.regs.get c

/-- Every byte of physical memory but those the predicate names reads as it read. -/
def SameBytesBut (stored : Nat → Prop) (s t : State) : Prop := ∀ a, ¬stored a → t.mem.read a = s.mem.read a

/-- Every byte of physical memory reads as it read. -/
def SameBytes (s t : State) : Prop := ∀ a, t.mem.read a = s.mem.read a

/-- The saved status registers, CP15, the stop record and the parameters hold what they held. -/
def SameSystem (s t : State) : Prop :=
  t.spsr = s.spsr ∧ t.cp15 = s.cp15 ∧ t.stop = s.stop ∧ t.params = s.params

/-- No device was accessed. -/
def SameDevices (s t : State) : Prop := t.devLog = s.devLog ∧ t.draws = s.draws

/-- CPSR bits 27:0 hold what they held: only the condition flags may differ. -/
def SameStatusBits (s t : State) : Prop := t.cpsr.extractLsb' 0 28 = s.cpsr.extractLsb' 0 28

/-- The cell a register number names in the current mode; none for r15. -/
def State.cellsOf (s : State) (i : Reg) : List Cell := (s.mode.cell i).toList

/-- The bytes of an access of n bytes at a physical address (R62). -/
def InAccess (pa : Word) (n : Width) (a : Nat) : Prop := ∃ k, k < n.bytes ∧ a = (pa + BitVec.ofNat 32 k).toNat

end Sys2Proof.Machine
end

