-- ==== Sys2Proof/Certificates/Slice0/Obligations.lean ====
section
/-! DEFINITION. The statements for the provers, one for each obligation of OBLIGATIONS.json, and before them the words
they are stated in. The words restate the spec's own tables and formulas; they do not call the meanings. -/

namespace Sys2Proof.Claims

open Sys2Proof.Machine

/-! ### How an instruction ends -/

/-- The condition of an instruction passes on the flags (40_dispatch.md R153). -/
abbrev Passes (i : Instr) (s : State) : Prop := Cond.passes i.cond s.flags = true

/-- The instruction answers a next state of which P holds. -/
def Completes (i : Instr) (s : State) (P : State → Prop) : Prop := ∃ t, exec i s = .next t ∧ P t

/-- The instruction raises a fault, and nothing but the stop record has changed (R158, R163). -/
def Raises (i : Instr) (s : State) (r : FaultRecord) : Prop :=
  exec i s = .fault (r.leaving { s with stop := .fault r s.pc })

/-- The instruction is refused, and nothing but the stop record has changed (R158, R163). -/
def Refuses (i : Instr) (s : State) (r : RefusalReason) : Prop :=
  exec i s = .refused (r.leaving { s with stop := .refusal r s.pc })

/-- Nothing but the listed cells, the PC and the condition flags differs. -/
def OnlyRegs (cells : List Cell) (s t : State) : Prop :=
  SameRegsBut cells s t ∧ SameStatusBits s t ∧ SameSystem s t ∧ SameBytes s t ∧ SameDevices s t

/-- The register number i, in the bank that s selects, holds v in t. -/
def Holds (s t : State) (i : Reg) (v : Word) : Prop := ∀ c, s.mode.cell i = some c → t.regs.get c = v

/-- Rd holds v, the flags are `fl` when the S bit asks for them, the PC advances, and nothing else differs. -/
def PutsResult (i : Instr) (s : State) (f : Bool) (rd : Reg) (v : Word) (fl : Flags) : Prop :=
  Completes i s fun t =>
    Holds s t rd v ∧ t.pc = s.pc + 4 ∧ t.flags = (if f then fl else s.flags) ∧ OnlyRegs (s.cellsOf rd) s t

/-- The flags are `fl`, the PC advances, and nothing else differs. -/
def SetsFlags (i : Instr) (s : State) (fl : Flags) : Prop :=
  Completes i s fun t => t.pc = s.pc + 4 ∧ t.flags = fl ∧ OnlyRegs [] s t

/-- The PC is v and nothing else differs. -/
def JumpsTo (i : Instr) (s : State) (v : Word) : Prop :=
  Completes i s fun t => t.pc = v ∧ t.flags = s.flags ∧ OnlyRegs [] s t

/-! ### Flags (00_scope.md R14, 41_data_processing.md R182) -/

/-- CPSR.C as the carry in. -/
def carryIn (s : State) : Nat := if s.flags.c then 1 else 0

/-- The logical class: C from the shifter, V unchanged. -/
def logicFlags (s : State) (r : Word) (sc : Bool) : Flags := ⟨r.getLsbD 31, r == 0, sc, s.flags.v⟩

/-- The addition class: CarryAdd and OverflowAdd of R14. -/
def addFlags (a b r : Word) (c : Nat) : Flags :=
  ⟨r.getLsbD 31, r == 0, decide (a.toNat + b.toNat + c ≥ 2 ^ 32),
    (a.getLsbD 31 == b.getLsbD 31) && (a.getLsbD 31 != r.getLsbD 31)⟩

/-- The subtraction class a - b: NotBorrow and OverflowSub of R14. -/
def subFlags (a b r : Word) (c : Nat) : Flags :=
  ⟨r.getLsbD 31, r == 0, decide (a.toNat ≥ b.toNat + (1 - c)),
    (a.getLsbD 31 != b.getLsbD 31) && (a.getLsbD 31 != r.getLsbD 31)⟩

/-- T = 0 and one of the seven valid modes (10_state.md R21, R31). -/
def ValidStatus (p : Word) : Prop := p.getLsbD 5 = false ∧ ∃ m : Mode, p.extractLsb' 0 5 = m.bits

/-! ### Data processing: an instruction with its result and the flags it sets when S = 1 -/

structure DpRow where
  instr : Instr
  value : Word
  flags : Flags

/-- AND, EOR, ORR, BIC (R185, R186, R197, R199). -/
def logicRows (s : State) (a : Word) (o : Shifted) (and eor orr bic : Instr) : List DpRow :=
  [⟨and, a &&& o.op2, logicFlags s (a &&& o.op2) o.carry⟩,
   ⟨eor, a ^^^ o.op2, logicFlags s (a ^^^ o.op2) o.carry⟩,
   ⟨orr, a ||| o.op2, logicFlags s (a ||| o.op2) o.carry⟩,
   ⟨bic, a &&& ~~~o.op2, logicFlags s (a &&& ~~~o.op2) o.carry⟩]

/-- MOV, MVN (R198, R200). -/
def moveRows (s : State) (o : Shifted) (mov mvn : Instr) : List DpRow :=
  [⟨mov, o.op2, logicFlags s o.op2 o.carry⟩, ⟨mvn, ~~~o.op2, logicFlags s (~~~o.op2) o.carry⟩]

/-- SUB, RSB, ADD, ADC, SBC, RSC (R187 to R192). -/
def arithRows (s : State) (a b : Word) (sub rsb add adc sbc rsc : Instr) : List DpRow :=
  let c := carryIn s
  [⟨sub, a - b, subFlags a b (a - b) 1⟩,
   ⟨rsb, b - a, subFlags b a (b - a) 1⟩,
   ⟨add, a + b, addFlags a b (a + b) 0⟩,
   ⟨adc, a + b + BitVec.ofNat 32 c, addFlags a b (a + b + BitVec.ofNat 32 c) c⟩,
   ⟨sbc, a - b - BitVec.ofNat 32 (1 - c), subFlags a b (a - b - BitVec.ofNat 32 (1 - c)) c⟩,
   ⟨rsc, b - a - BitVec.ofNat 32 (1 - c), subFlags b a (b - a - BitVec.ofNat 32 (1 - c)) c⟩]

/-- TST, TEQ, CMP, CMN (R193 to R196); `value` is the result the flags are of. -/
def compareRows (s : State) (a : Word) (o : Shifted) (tst teq cmp cmn : Instr) : List DpRow :=
  [⟨tst, a &&& o.op2, logicFlags s (a &&& o.op2) o.carry⟩,
   ⟨teq, a ^^^ o.op2, logicFlags s (a ^^^ o.op2) o.carry⟩,
   ⟨cmp, a - o.op2, subFlags a o.op2 (a - o.op2) 1⟩,
   ⟨cmn, a + o.op2, addFlags a o.op2 (a + o.op2) 0⟩]

/-- The twelve instructions that write Rd, immediate operand. -/
def immRows (s : State) (c : Cond) (f : Bool) (rn rd : Reg) (op : ImmOp) : List DpRow :=
  let o := immShifted op s.flags.c
  logicRows s (s.readReg rn) o (.andImm c f rn rd op) (.eorImm c f rn rd op) (.orrImm c f rn rd op)
    (.bicImm c f rn rd op) ++
  moveRows s o (.movImm c f rd op) (.mvnImm c f rd op) ++
  arithRows s (s.readReg rn) o.op2 (.subImm c f rn rd op) (.rsbImm c f rn rd op) (.addImm c f rn rd op)
    (.adcImm c f rn rd op) (.sbcImm c f rn rd op) (.rscImm c f rn rd op)

/-- The twelve instructions that write Rd, register shifted by an immediate. -/
def rsiRows (s : State) (c : Cond) (f : Bool) (rn rd : Reg) (op : RsiOp) : List DpRow :=
  let o := shiftImm op.shift (s.readReg op.rm) op.amount.toNat s.flags.c
  logicRows s (s.readReg rn) o (.andRsi c f rn rd op) (.eorRsi c f rn rd op) (.orrRsi c f rn rd op)
    (.bicRsi c f rn rd op) ++
  moveRows s o (.movRsi c f rd op) (.mvnRsi c f rd op) ++
  arithRows s (s.readReg rn) o.op2 (.subRsi c f rn rd op) (.rsbRsi c f rn rd op) (.addRsi c f rn rd op)
    (.adcRsi c f rn rd op) (.sbcRsi c f rn rd op) (.rscRsi c f rn rd op)

/-- The shifter operand of a register shifted by the low byte of a register (R170). -/
def byRegister (s : State) (op : RsrOp) : Shifted :=
  shiftReg op.shift (s.readReg op.rm) ((s.readReg op.rs).toNat % 256) s.flags.c

/-- The instruction completes, and every ordering condition then compares a with b (40_dispatch.md R153). -/
def ComparesAs (i : Instr) (s : State) (a b : Word) : Prop :=
  Completes i s fun t =>
    (Cond.passes .eq t.flags = true ↔ a = b) ∧ (Cond.passes .ne t.flags = true ↔ a ≠ b) ∧
    (Cond.passes .cs t.flags = true ↔ a.toNat ≥ b.toNat) ∧ (Cond.passes .cc t.flags = true ↔ a.toNat < b.toNat) ∧
    (Cond.passes .hi t.flags = true ↔ a.toNat > b.toNat) ∧ (Cond.passes .ls t.flags = true ↔ a.toNat ≤ b.toNat) ∧
    (Cond.passes .ge t.flags = true ↔ a.toInt ≥ b.toInt) ∧ (Cond.passes .lt t.flags = true ↔ a.toInt < b.toInt) ∧
    (Cond.passes .gt t.flags = true ↔ a.toInt > b.toInt) ∧ (Cond.passes .le t.flags = true ↔ a.toInt ≤ b.toInt)

/-! ### Single transfers (45_load_store.md) -/

/-- A single transfer: its instruction, the address, the updated base, whether the base is written back (R251), the
width, how a loaded value is extended (R72), the privilege of the access (R256), and whether R268 refuses it. -/
structure Single where
  instr : Instr
  addr : Word
  upd : Word
  back : Bool
  width : Width
  ext : Word → Word
  priv : Bool
  refused : Bool

/-- The base plus or minus the offset (R250). -/
def indexed (u : Bool) (base off : Word) : Word := if u then base + off else base - off

/-- The scaled register offset (R250). -/
def scaled (s : State) (op : RsiOp) : Word :=
  (shiftImm op.shift (s.readReg op.rm) op.amount.toNat s.flags.c).op2

/-- The six forms of an addressing-mode-2 transfer: immediate and register offset, pre-indexed, post-indexed and
unprivileged. `bad` is what R268 refuses of every form, `badT` of the unprivileged ones; `badBack` what it refuses
of a form with write-back. -/
def mode2 (s : State) (u w : Bool) (rn : Reg) (off : BitVec 12) (op : RsiOp) (width : Width) (bad badT badBack : Bool)
    (immPre immPost immT regPre regPost regT : Instr) : List Single :=
  let b := s.readReg rn
  let i := indexed u b (off.setWidth 32)
  let r := indexed u b (scaled s op)
  let wb := rn == 15 || badBack
  let pcOff := op.rm == 15
  [⟨immPre, i, i, w, width, id, s.privileged, bad || (w && wb)⟩,
   ⟨immPost, b, i, true, width, id, s.privileged, bad || wb⟩,
   ⟨immT, b, i, true, width, id, false, bad || badT || wb⟩,
   ⟨regPre, r, r, w, width, id, s.privileged, bad || pcOff || (w && wb)⟩,
   ⟨regPost, b, r, true, width, id, s.privileged, bad || pcOff || wb⟩,
   ⟨regT, b, r, true, width, id, false, bad || badT || pcOff || wb⟩]

/-- LDR and LDRT (R252, R257). -/
def wordLoads (s : State) (c : Cond) (u w : Bool) (rn rd : Reg) (off : BitVec 12) (op : RsiOp) : List Single :=
  mode2 s u w rn off op .word false (rd == 15) false (.ldrImmPre c u w rn rd off) (.ldrImmPost c u rn rd off)
    (.ldrtImm c u rn rd off) (.ldrRegPre c u w rn rd op) (.ldrRegPost c u rn rd op) (.ldrtReg c u rn rd op)

/-- LDRB and LDRBT (R254, R259). -/
def byteLoads (s : State) (c : Cond) (u w : Bool) (rn rd : Reg) (off : BitVec 12) (op : RsiOp) : List Single :=
  mode2 s u w rn off op .byte (rd == 15) false false (.ldrbImmPre c u w rn rd off) (.ldrbImmPost c u rn rd off)
    (.ldrbtImm c u rn rd off) (.ldrbRegPre c u w rn rd op) (.ldrbRegPost c u rn rd op) (.ldrbtReg c u rn rd op)

/-- STR and STRT (R253, R258). -/
def wordStores (s : State) (c : Cond) (u w : Bool) (rn rd : Reg) (off : BitVec 12) (op : RsiOp) : List Single :=
  mode2 s u w rn off op .word false false (rn == rd) (.strImmPre c u w rn rd off) (.strImmPost c u rn rd off)
    (.strtImm c u rn rd off) (.strRegPre c u w rn rd op) (.strRegPost c u rn rd op) (.strtReg c u rn rd op)

/-- STRB and STRBT (R255, R260). -/
def byteStores (s : State) (c : Cond) (u w : Bool) (rn rd : Reg) (off : BitVec 12) (op : RsiOp) : List Single :=
  mode2 s u w rn off op .byte (rd == 15) false (rn == rd) (.strbImmPre c u w rn rd off) (.strbImmPost c u rn rd off)
    (.strbtImm c u rn rd off) (.strbRegPre c u w rn rd op) (.strbRegPost c u rn rd op) (.strbtReg c u rn rd op)

/-- The two forms of an addressing-mode-3 transfer (R261). -/
def mode3 (s : State) (p u w : Bool) (rn rd : Reg) (off : BitVec 8) (rm : Reg) (width : Width) (ext : Word → Word)
    (badBack : Bool) (imm reg : Instr) : List Single :=
  let b := s.readReg rn
  let i := indexed u b (off.setWidth 32)
  let r := indexed u b (s.readReg rm)
  let back := !p || w
  let bad := rd == 15 || (!p && w) || (back && (rn == 15 || badBack))
  [⟨imm, if p then i else b, i, back, width, ext, s.privileged, bad⟩,
   ⟨reg, if p then r else b, r, back, width, ext, s.privileged, bad || rm == 15⟩]

/-- LDRH, LDRSB and LDRSH (R262, R264, R265). -/
def halfLoads (s : State) (c : Cond) (p u w : Bool) (rn rd : Reg) (off : BitVec 8) (rm : Reg) : List Single :=
  mode3 s p u w rn rd off rm .half id false (.ldrhImm c p u w rn rd off) (.ldrhReg c p u w rn rd rm) ++
  mode3 s p u w rn rd off rm .byte (fun v => (v.extractLsb' 0 8).signExtend 32) false
    (.ldrsbImm c p u w rn rd off) (.ldrsbReg c p u w rn rd rm) ++
  mode3 s p u w rn rd off rm .half (fun v => (v.extractLsb' 0 16).signExtend 32) false
    (.ldrshImm c p u w rn rd off) (.ldrshReg c p u w rn rd rm)

/-- STRH (R263). -/
def halfStores (s : State) (c : Cond) (p u w : Bool) (rn rd : Reg) (off : BitVec 8) (rm : Reg) : List Single :=
  mode3 s p u w rn rd off rm .half id (rn == rd) (.strhImm c p u w rn rd off) (.strhReg c p u w rn rd rm)

/-- The cells a write-back may change. -/
def Single.backCells (x : Single) (s : State) (rn : Reg) : List Cell := if x.back then s.cellsOf rn else []

/-- The state after the decode-time write-back (40_dispatch.md R159). -/
def Single.backState (x : Single) (s : State) (rn : Reg) : State := if x.back then s.writeReg rn x.upd else s

/-- The virtual address a word load accesses: with Control.A = U = 0 the aligned one (20_memory.md R69). -/
def Single.wordVa (x : Single) (s : State) : Word :=
  if s.cp15.control.getLsbD 1 = false ∧ s.cp15.control.getLsbD 22 = false then x.addr &&& 0xFFFFFFFC#32 else x.addr

/-- The end of a load of v into Rd: a PC load is masked (R252), the base holds the updated address unless the load
has overwritten it (R252), and nothing else but the devices may differ. -/
def Loaded (x : Single) (s t : State) (rn rd : Reg) (v : Word) : Prop :=
  (if rd = 15 then t.pc = v &&& 0xFFFFFFFC#32 else Holds s t rd v ∧ t.pc = s.pc + 4) ∧
  (x.back = true → rn ≠ rd → Holds s t rn x.upd) ∧
  SameRegsBut (s.cellsOf rd ++ x.backCells s rn) s t ∧ t.cpsr = s.cpsr ∧ SameSystem s t ∧ SameBytes s t

/-- The end of a store but for memory and the devices: the PC advances, the base is updated, nothing else differs. -/
def Stored (x : Single) (s t : State) (rn : Reg) : Prop :=
  t.pc = s.pc + 4 ∧ (x.back = true → Holds s t rn x.upd) ∧ SameRegsBut (x.backCells s rn) s t ∧
  t.cpsr = s.cpsr ∧ SameSystem s t

/-- An aligned access at a virtual address translates to a physical address of ordinary memory. -/
def Reaches (s : State) (va : Word) (n : Width) (acc : Access) (priv : Bool) (pa : Word) : Prop :=
  misaligned va n = false ∧ translate va acc priv s = .next pa ∧ s.deviceAt pa = none

/-- An aligned access at a virtual address translates to a physical address of the device at place k. -/
def ReachesDevice (s : State) (va : Word) (n : Width) (acc : Access) (priv : Bool) (pa : Word) (k : Nat)
    (d : Device) : Prop :=
  misaligned va n = false ∧ translate va acc priv s = .next pa ∧ s.deviceAt pa = some (k, d)

/-- The bytes of an access at pa hold the low bytes of v, the lowest first (20_memory.md R62). -/
def BytesAt (t : State) (pa : Word) (n : Width) (v : Word) : Prop :=
  ∀ k, k < n.bytes → t.mem.read (pa + BitVec.ofNat 32 k).toNat = v.extractLsb' (8 * k) 8

/-! ### Block transfers (46_block_transfer.md) -/

/-- The number of registers of a list below number n. -/
def below (list : BitVec 16) : Nat → Nat
  | 0 => 0
  | n + 1 => below list n + (list.getLsbD n).toNat

/-- The address of the first word and the write-back value, for n listed registers (R290). -/
def startOf (p u : Bool) (b : Word) (n : Nat) : Word :=
  match p, u with
  | false, true => b
  | true, true => b + 4
  | false, false => b - BitVec.ofNat 32 (4 * n) + 4
  | true, false => b - BitVec.ofNat 32 (4 * n)

def backOf (u : Bool) (b : Word) (n : Nat) : Word :=
  if u then b + BitVec.ofNat 32 (4 * n) else b - BitVec.ofNat 32 (4 * n)

/-- The address of register i of a list: the start plus 4 for each listed register below it (R291). -/
def slot (s : State) (p u : Bool) (rn : Reg) (list : BitVec 16) (i : Reg) : Word :=
  startOf p u (s.readReg rn) (below list 16) + BitVec.ofNat 32 (4 * below list i.val)

/-- What R299 refuses of every block transfer: an empty list, Rn = 15, write-back with Rn in the list. -/
def blockBad (w : Bool) (rn : Reg) (list : BitVec 16) : Bool :=
  list == 0 || rn == 15 || (w && list.getLsbD rn.val)

/-- Every access of a block reaches ordinary memory, register i's at pa i. -/
def BlockReaches (s : State) (p u : Bool) (rn : Reg) (list : BitVec 16) (acc : Access) (pa : Reg → Word) : Prop :=
  ∀ i : Reg, list.getLsbD i.val = true → Reaches s (slot s p u rn list i) .word acc s.privileged (pa i)

/-- The stores of a block do not change the translation of its own addresses: with the stored words replaced by any
others, every address translates as before (always so with the MMU off). -/
def BlockStable (s : State) (p u : Bool) (rn : Reg) (list : BitVec 16) (pa : Reg → Word) : Prop :=
  ∀ m : Memory, SameBytesBut (fun a => ∃ i : Reg, list.getLsbD i.val = true ∧ InAccess (pa i) .word a) s { s with mem := m } →
    ∀ i : Reg, list.getLsbD i.val = true →
      translate (slot s p u rn list i) .write s.privileged { s with mem := m } = .next (pa i)

/-- The cells of the listed registers in a mode. -/
def listCells (m : Mode) (list : BitVec 16) : List Cell :=
  (List.finRange 16).flatMap fun i => if list.getLsbD i.val then (m.cell i).toList else []

/-- A form of block transfer: its instruction, its list, the bank of its registers, and the checks it passes besides
those of `blockBad` (R294, R295, R297). -/
structure Block where
  instr : Instr
  list : BitVec 16
  bank : Mode
  ready : Prop

/-- What R294 and R297 ask of the user-bank forms. -/
def UserBank (s : State) (w : Bool) : Prop := w = false ∧ s.mode ≠ .usr ∧ s.mode ≠ .sys

/-- LDM(1), LDM(2) and LDM(3). -/
def blockLoads (s : State) (c : Cond) (p u w : Bool) (rn : Reg) (list : BitVec 16) (low : BitVec 15) : List Block :=
  [⟨.ldm1 c p u w rn list, list, s.mode, True⟩,
   ⟨.ldm2 c p u w rn low, low.setWidth 16, .usr, UserBank s w⟩,
   ⟨.ldm3 c p u w rn low, low.setWidth 16 ||| 0x8000#16, s.mode,
     ∃ k, s.mode.spsrCell = some k ∧ ValidStatus (s.spsr.get k)⟩]

/-- STM(1) and STM(2). -/
def blockStores (s : State) (c : Cond) (p u w : Bool) (rn : Reg) (list : BitVec 16) : List Block :=
  [⟨.stm1 c p u w rn list, list, s.mode, True⟩, ⟨.stm2 c p u w rn list, list, .usr, UserBank s w⟩]

/-- Register i is in the list and comes before register k. -/
def Before (list : BitVec 16) (k i : Reg) : Prop := list.getLsbD i.val = true ∧ i < k

/-- The loads before register k's reach ordinary memory, register i's at pa i, and register k's is aligned. -/
def LoadsUpTo (s : State) (p u : Bool) (rn : Reg) (list : BitVec 16) (k : Reg) (pa : Reg → Word) : Prop :=
  (∀ i, Before list k i → Reaches s (slot s p u rn list i) .word .read s.privileged (pa i)) ∧
  misaligned (slot s p u rn list k) .word = false

/-- A byte that a store before register k's writes. -/
def StoredBefore (list : BitVec 16) (k : Reg) (pa : Reg → Word) (a : Nat) : Prop :=
  ∃ i, Before list k i ∧ InAccess (pa i) .word a

/-- The stores before register k's reach ordinary memory, register i's at pa i, whatever they have stored by then, and
register k's is aligned. -/
def StoresUpTo (s : State) (p u : Bool) (rn : Reg) (list : BitVec 16) (k : Reg) (pa : Reg → Word) : Prop :=
  (∀ m : Memory, SameBytesBut (StoredBefore list k pa) s { s with mem := m } →
    ∀ i, Before list k i → Reaches { s with mem := m } (slot s p u rn list i) .word .write s.privileged (pa i)) ∧
  misaligned (slot s p u rn list k) .word = false

/-- What every stopped block transfer leaves (40_dispatch.md R163): the stop record set, the raw PC, the status
registers, CP15 and the devices as they were. -/
def StoppedBlock (s t : State) (record : StopRecord) : Prop :=
  t.stop = record ∧ t.pc = s.pc ∧ t.cpsr = s.cpsr ∧ t.spsr = s.spsr ∧ t.cp15 = s.cp15 ∧ t.params = s.params ∧
  SameDevices s t

/-- A load block stopped at register k: the registers before it are loaded, and no other register, the base among them,
nor any byte of memory has changed (46_block_transfer.md R291, R298). -/
def LoadedPart (x : Block) (s t : State) (k : Reg) (pa : Reg → Word) (record : StopRecord) : Prop :=
  StoppedBlock s t record ∧
  (∀ i c, Before x.list k i → x.bank.cell i = some c → t.regs.get c = s.mem.load (pa i) .word) ∧
  (∀ c, (∀ i, Before x.list k i → x.bank.cell i ≠ some c) → t.regs.get c = s.regs.get c) ∧ SameBytes s t

/-- A store block stopped at register k: the words before it are stored (the last one where two lie at one address), and
no other byte nor any register has changed (R291, R298). -/
def StoredPart (x : Block) (s t : State) (k : Reg) (pa : Reg → Word) (record : StopRecord) : Prop :=
  StoppedBlock s t record ∧ t.regs = s.regs ∧
  (∀ i, Before x.list k i → (∀ j, Before x.list k j → i < j → pa j ≠ pa i) →
    BytesAt t (pa i) .word (s.readAs x.bank i)) ∧
  SameBytesBut (StoredBefore x.list k pa) s t

/-! ### Status registers (43_status_register.md) -/

/-- The bit of a status register that the field mask selects (R231). -/
def Selected (mask : BitVec 4) (k : Nat) : Prop := mask.getLsbD (k / 8) = true

/-- An MSR's operand writes a 1 to a bit of 27:8 (R231). -/
def WritesReserved (mask : BitVec 4) (op : Word) : Prop :=
  ∃ k, 8 ≤ k ∧ k < 28 ∧ Selected mask k ∧ op.getLsbD k = true

/-- `new` is the old value with the selected bytes taken from the operand (R232, R234). -/
def Merges (old op : Word) (mask : BitVec 4) (new : Word) : Prop :=
  ∀ k, k < 32 → (Selected mask k → new.getLsbD k = op.getLsbD k) ∧ (¬Selected mask k → new.getLsbD k = old.getLsbD k)

/-- The two forms of MSR with their operand: immediate and register (R231). -/
def msrForms (s : State) (c : Cond) (r : Bool) (mask : BitVec 4) (imm : ImmOp) (rm : Reg) : List (Instr × Word) :=
  [(.msrImm c r mask imm, (imm.imm.setWidth 32).rotateRight (2 * imm.rot.toNat)), (.msrReg c r mask rm, s.readReg rm)]

/-! ### Translation (20_memory.md R94) -/

/-- Check(d, ap, level) passes: the domain is a manager, or a client whose AP field allows the access (R90, R91). -/
def CheckPasses (s : State) (d : BitVec 4) (ap : BitVec 2) (acc : Access) (priv : Bool) : Prop :=
  let dac := (s.cp15.dacr >>> (2 * d.toNat)).extractLsb' 0 2
  dac = 3 ∨ dac = 1 ∧ ∃ m, apTable ap s.sysProt s.romProt priv = some m ∧ m.allows acc = true

/-- The first-level descriptor of an address (R81). -/
def firstDescriptor (s : State) (va : Word) : Word :=
  s.mem.load ((s.cp15.ttb &&& 0xFFFFC000#32) ||| ((va >>> 18) &&& 0x3FFC#32)) .word

/-- The second-level descriptor of an address, from a coarse or a fine table (R85, R86). -/
def secondDescriptor (s : State) (va : Word) : Word :=
  let l1 := firstDescriptor s va
  if l1.extractLsb' 0 2 = 1 then s.mem.load ((l1 &&& 0xFFFFFC00#32) ||| ((va >>> 10) &&& 0x3FC#32)) .word
  else s.mem.load ((l1 &&& 0xFFFFF000#32) ||| ((va >>> 8) &&& 0xFFC#32)) .word

/-! ### Classes of instructions -/

/-- A data-processing instruction that writes Rd = 15 with S = 1 (R183). -/
def restores : Instr → Bool
  | .andImm _ f _ rd _ | .eorImm _ f _ rd _ | .subImm _ f _ rd _ | .rsbImm _ f _ rd _ | .addImm _ f _ rd _
  | .adcImm _ f _ rd _ | .sbcImm _ f _ rd _ | .rscImm _ f _ rd _ | .orrImm _ f _ rd _ | .bicImm _ f _ rd _ => f && rd == 15
  | .andRsi _ f _ rd _ | .eorRsi _ f _ rd _ | .subRsi _ f _ rd _ | .rsbRsi _ f _ rd _ | .addRsi _ f _ rd _
  | .adcRsi _ f _ rd _ | .sbcRsi _ f _ rd _ | .rscRsi _ f _ rd _ | .orrRsi _ f _ rd _ | .bicRsi _ f _ rd _ => f && rd == 15
  | .movImm _ f rd _ | .mvnImm _ f rd _ | .movRsi _ f rd _ | .mvnRsi _ f rd _ => f && rd == 15
  | .ldm3 .. => true
  | _ => false

/-- MSR CPSR. -/
def writesCpsr : Instr → Bool
  | .msrImm _ r _ _ | .msrReg _ r _ _ => !r
  | _ => false

/-- MSR SPSR. -/
def writesSpsr : Instr → Bool
  | .msrImm _ r _ _ | .msrReg _ r _ _ => r
  | _ => false

/-- SWI and BKPT. -/
def entersException : Instr → Bool
  | .swi .. | .bkpt .. => true
  | _ => false

/-- MCR. -/
def movesToCp15 : Instr → Bool
  | .mcr .. => true
  | _ => false

/-- The stores and the swaps (20_memory.md R72). -/
def stores : Instr → Bool
  | .strImmPre .. | .strImmPost .. | .strtImm .. | .strRegPre .. | .strRegPost .. | .strtReg .. => true
  | .strbImmPre .. | .strbImmPost .. | .strbtImm .. | .strbRegPre .. | .strbRegPost .. | .strbtReg .. => true
  | .strhImm .. | .strhReg .. | .swp .. | .swpb .. | .stm1 .. | .stm2 .. => true
  | _ => false

/-- The word identifies no instruction: the spaces of 30_encoding.md R126 and R131. -/
def UndefinedSpace (w : Word) : Prop :=
  let b := fun k => w.getLsbD k
  let top := w.extractLsb' 25 3
  -- LDC/STC, CDP, the media space, the gap beside MSR immediate, LDRD/STRD
  top = 0b110 ∨ (top = 0b111 ∧ b 24 = false ∧ b 4 = false) ∨ (top = 0b011 ∧ b 4 = true) ∨
  (w.extractLsb' 23 5 = 0b00110 ∧ w.extractLsb' 20 2 = 0b00) ∨
  (top = 0b000 ∧ b 7 = true ∧ b 6 = true ∧ b 4 = true ∧ b 20 = false) ∨
  -- the multiply space
  (w.extractLsb' 4 4 = 0b1001 ∧ (w.extractLsb' 22 6 = 0b000001 ∨
    (w.extractLsb' 23 5 = 0b00010 ∧ w.extractLsb' 20 2 ≠ 0b00) ∨ w.extractLsb' 23 5 = 0b00011)) ∨
  -- the miscellaneous space outside MRS, MSR, BX, BLX, CLZ and BKPT
  (w.extractLsb' 23 5 = 0b00010 ∧ b 20 = false ∧ (b 4 = false ∨ b 7 = false) ∧ w.extractLsb' 4 4 ≠ 0 ∧
    ¬(w.extractLsb' 21 2 = 1 ∧ (w.extractLsb' 4 4 = 1 ∨ w.extractLsb' 4 4 = 3 ∨ w.extractLsb' 4 4 = 7)) ∧
    ¬(w.extractLsb' 21 2 = 3 ∧ w.extractLsb' 4 4 = 1))

/-- What a stop leaves (40_dispatch.md R163): the raw PC, the status registers, CP15 and the parameters as they were,
and the stop record with the reason and the address of the instruction. -/
def StopLeaves (s t : State) (record : StopRecord) : Prop :=
  t.stop = record ∧ t.pc = s.pc ∧ t.cpsr = s.cpsr ∧ t.spsr = s.spsr ∧ t.cp15 = s.cp15 ∧ t.params = s.params

/-- The bank a mode reads r13 and r14 from: usr and sys share one (10_state.md R23). -/
def bankOf : Mode → Mode
  | .sys => .usr
  | m => m

end Sys2Proof.Claims

open Sys2Proof Sys2Proof.Machine Sys2Proof.Claims

/-! ### Encoding and decoding -/

/-- Words of the spec's own examples, one or more for each format, decode to the instructions the rules name them. -/
def Obligations.DecodesSpecWords : Prop :=
  decode 0xE10F0000 = .instr (.mrs .al false 0) ∧                                             -- MRS r0, CPSR
  decode 0xE328F20F = .instr (.msrImm .al false 8 ⟨2, 0x0F⟩) ∧                                -- MSR CPSR_f, #0xF0000000
  decode 0xE16FF000 = .instr (.msrReg .al true 15 0) ∧                                        -- MSR SPSR_fsxc, r0
  decode 0xE12FFF1F = .instr (.bx .al 15) ∧                                                   -- BX pc
  decode 0xE12FFF31 = .instr (.blxReg .al 1) ∧                                                -- BLX r1
  decode 0xE16F0F11 = .instr (.clz .al 0 1) ∧                                                 -- CLZ r0, r1
  decode 0xE1200070 = .instr (.bkpt .al 0) ∧                                                  -- BKPT 0
  decode 0xE0203291 = .instr (.mla .al false 0 3 2 1) ∧                                       -- MLA r0, r1, r2, r3
  decode 0xE0910392 = .instr (.umull .al true 1 0 3 2) ∧                                      -- UMULLS r0, r1, r2, r3
  decode 0xE1410092 = .instr (.swpb .al 1 0 2) ∧                                              -- SWPB r0, r2, [r1]
  decode 0xE1B100B2 = .instr (.ldrhReg .al true true true 1 0 2) ∧                            -- LDRH r0, [r1, r2]!
  decode 0xE1D100DC = .instr (.ldrsbImm .al true true false 1 0 12) ∧                         -- LDRSB r0, [r1, #12]
  decode 0xE38104FF = .instr (.orrImm .al false 1 0 ⟨4, 0xFF⟩) ∧                              -- ORR r0, r1, #0xFF000000
  decode 0xE0510002 = .instr (.subRsi .al true 1 0 ⟨0, .lsl, 2⟩) ∧                            -- SUBS r0, r1, r2
  decode 0xE1B00022 = .instr (.movRsi .al true 0 ⟨0, .lsr, 2⟩) ∧                              -- MOVS r0, r2, LSR #32
  decode 0xE1B00211 = .instr (.movRsr .al true 0 ⟨2, .lsl, 1⟩) ∧                              -- MOVS r0, r1, LSL r2
  decode 0xE3510005 = .instr (.cmpImm .al 1 ⟨0, 5⟩) ∧                                         -- CMP r1, #5
  decode 0xE5B10004 = .instr (.ldrImmPre .al true true 1 0 4) ∧                               -- LDR r0, [r1, #4]!
  decode 0xE7110102 = .instr (.ldrRegPre .al false false 1 0 ⟨2, .lsl, 2⟩) ∧                  -- LDR r0, [r1, -r2, LSL #2]
  decode 0xE4A10000 = .instr (.strtImm .al true 1 0 0) ∧                                      -- STRT r0, [r1]
  decode 0xE8A0000E = .instr (.stm1 .al false true true 0 0x000E) ∧                           -- STMIA r0!, {r1, r2, r3}
  decode 0xE8D06000 = .instr (.ldm2 .al false true false 0 0x6000) ∧                          -- LDMIA r0, {r13, r14}^
  decode 0xE8FD8000 = .instr (.ldm3 .al false true true 13 0) ∧                               -- LDMFD sp!, {pc}^
  decode 0xEB000001 = .instr (.bl .al 1) ∧                                                    -- BL
  decode 0xEE080F17 = .instr (.mcr .al 0 8 0 15 0 7) ∧                                        -- MCR p15, 0, r0, c8, c7, 0
  decode 0xEF123456 = .instr (.swi .al 0x123456)                                              -- SWI 0x123456

/-- Every well-formed instruction, with every operand at every value, decodes from its own word. -/
def Obligations.DecodeOfEncode : Prop := ∀ i : Instr, i.wellFormed = true → decode (encode i) = .instr i

/-- A word that decodes to an instruction is the word of that instruction, and the instruction is well-formed: no bit
of a word is dropped. -/
def Obligations.EncodeOfDecode : Prop :=
  ∀ (w : Word) (i : Instr), decode w = .instr i → encode i = w ∧ i.wellFormed = true

/-- The table has 105 rows and no word matches two of them, so the scan order decides no word. -/
def Obligations.RowsDisjoint : Prop :=
  opcodeTable.length = 105 ∧ opcodeTable.Pairwise fun r q => ∀ w : Word, ¬(r.matches w = true ∧ q.matches w = true)

/-- A word without the reserved condition matches no row exactly when it lies in one of the undefined spaces. -/
def Obligations.UndefinedSpaces : Prop :=
  ∀ w : Word, w.extractLsb' 28 4 ≠ 0b1111 → (decode w = .noRow ↔ UndefinedSpace w)

/-! ### The tick -/

/-- A running core whose fetch answers the word of an instruction of an implemented class runs that instruction in
the state after the fetch, which differs from the state before it in the record of the devices at most. That `exec`
itself looks at the condition is the model's choice (log 11). -/
def Obligations.StepRunsDecoded : Prop :=
  ∀ (s s' : State) (w : Word) (i : Instr), s.stop = .running → fetch s = .next (w, s') → decode w = .instr i →
    implemented s.params.extra i.cls = true →
    step s = exec i s' ∧ s' = { s with draws := s'.draws, devLog := s'.devLog }

/-- The fetch of an aligned raw PC whose translation answers an address of ordinary memory reads the four bytes there,
little-endian, and changes nothing. -/
def Obligations.FetchReadsMemory : Prop :=
  ∀ (s : State) (pa : Word), Reaches s s.pc .word .execute s.privileged pa →
    fetch s = .next (s.mem.read (pa + 3).toNat ++ s.mem.read (pa + 2).toNat ++ s.mem.read (pa + 1).toNat ++
      s.mem.read pa.toNat, s)

/-- A word placed at the raw PC is the instruction the next step runs (MMU off, no device there): code is what the
last store left (R102). The placing is the model's (log 7). -/
def Obligations.PlacedWordRuns : Prop :=
  ∀ (s : State) (i : Instr), s.stop = .running → s.mem.wf → s.mmuOn = false → misaligned s.pc .word = false →
    s.deviceAt s.pc = none → i.wellFormed = true → implemented s.params.extra i.cls = true →
    step (s.withFetchWord 32 (encode i).toNat) =
      exec i { s with mem := s.mem.store s.pc (encode i) .word }

/-- A core whose stop record is set: its tick returns and changes nothing. -/
def Obligations.StoppedCoreUnchanged : Prop := ∀ s : State, s.stop ≠ .running → step s = .next s

/-- What a fetched word does that is not an instruction to run: the reserved condition faults at once; a failing
condition skips any other word; of the words that pass, one that matches no row and one of an absent class fault, and
one of an implemented class with a wrong should-be field is refused. -/
def Obligations.WordsThatStop : Prop :=
  ∀ (s s' : State) (w : Word), s.stop = .running → fetch s = .next (w, s') →
    (w.extractLsb' 28 4 = 0b1111 →
      step s = .fault (.reservedCondition w s.pc { s' with stop := .fault (.reservedCondition w s.pc) s.pc })) ∧
    (∀ c : Cond, w.extractLsb' 28 4 = c.bits →
      (Cond.passes c s.flags = false → step s = .next { s' with pc := s.pc + 4 }) ∧
      (Cond.passes c s.flags = true →
        (decode w = .noRow ∨ (∃ i, decode w = .instr i ∧ implemented s.params.extra i.cls = false) ∨
            (∃ k, decode w = .shouldBeField k ∧ implemented s.params.extra k = false) →
          step s =
            .fault (.undefinedInstruction w s.pc { s' with stop := .fault (.undefinedInstruction w s.pc) s.pc })) ∧
        (∀ k, decode w = .shouldBeField k → implemented s.params.extra k = true →
          step s = .refused (.shouldBeField { s' with stop := .refusal .shouldBeField s.pc }))))

/-- An instruction whose condition fails only advances the PC; `exec` looks at the condition itself (log 11). -/
def Obligations.FailedConditionSkips : Prop :=
  ∀ (i : Instr) (s : State), Cond.passes i.cond s.flags = false → exec i s = .next { s with pc := s.pc + 4 }

/-- The condition table: the value of each condition field and the flags it passes on. -/
def Obligations.ConditionTable : Prop :=
  ∀ (p : Word),
    let n := p.getLsbD 31
    let z := p.getLsbD 30
    let c := p.getLsbD 29
    let v := p.getLsbD 28
    ∀ (b : BitVec 4) (k : Cond), Cond.ofBits b = some k →
      (Cond.passes k (flagsOf p) = true ↔
        (b = 0b0000 ∧ z = true) ∨ (b = 0b0001 ∧ z = false) ∨ (b = 0b0010 ∧ c = true) ∨ (b = 0b0011 ∧ c = false) ∨
        (b = 0b0100 ∧ n = true) ∨ (b = 0b0101 ∧ n = false) ∨ (b = 0b0110 ∧ v = true) ∨ (b = 0b0111 ∧ v = false) ∨
        (b = 0b1000 ∧ c = true ∧ z = false) ∨ (b = 0b1001 ∧ (c = false ∨ z = true)) ∨ (b = 0b1010 ∧ n = v) ∨
        (b = 0b1011 ∧ n ≠ v) ∨ (b = 0b1100 ∧ n = v ∧ z = false) ∨ (b = 0b1101 ∧ (n ≠ v ∨ z = true)) ∨ b = 0b1110)

/-! ### Registers -/

/-- The banking table: every number but 15 names a cell in every mode, and two numbers in two modes name the same cell
exactly when the numbers are equal and the banks are: r0 to r7 are shared, r8 to r12 are private to fiq, r13 and r14
are shared by usr and sys alone. -/
def Obligations.BankingTable : Prop :=
  ∀ (m m' : Mode) (i j : Reg),
    (m.cell i = none ↔ i = 15) ∧
    (i ≠ 15 → (m.cell i = m'.cell j ↔
      i = j ∧ (i < 8 ∨ (i < 13 ∧ (m = .fiq ↔ m' = .fiq)) ∨ (13 ≤ i ∧ bankOf m = bankOf m'))))

/-- Reading after writing a register, in any two modes: a register reads what was last written to its cell and else
what it held; a write of r15 stores the raw PC as it is, and r15 reads as the raw PC plus 8. -/
def Obligations.RegisterWriteRead : Prop :=
  ∀ (s : State) (m m' : Mode) (i j : Reg) (v : Word),
    (i ≠ 15 → (s.writeAs m i v).readAs m' j = if m'.cell j = m.cell i then v else s.readAs m' j) ∧
    (s.writeAs m 15 v).pc = v ∧ (s.writeAs m 15 v).readAs m' 15 = v + 8 ∧
    (i ≠ 15 → (s.writeAs m i v).pc = s.pc) ∧ (j ≠ 15 → (s.writeAs m 15 v).readAs m' j = s.readAs m' j)

/-! ### Data processing -/

/-- AND, EOR, SUB, RSB, ADD, ADC, SBC, RSC, ORR, MOV, BIC and MVN with an immediate or an immediate-shifted register
and Rd not r15: the result, the flags when S = 1, and nothing else. -/
def Obligations.DataProcessingResults : Prop :=
  ∀ (s : State) (c : Cond) (f : Bool) (rn rd : Reg), Cond.passes c s.flags = true → rd ≠ 15 →
    (∀ op : ImmOp, ∀ r ∈ immRows s c f rn rd op, PutsResult r.instr s f rd r.value r.flags) ∧
    (∀ op : RsiOp, ∀ r ∈ rsiRows s c f rn rd op, PutsResult r.instr s f rd r.value r.flags)

/-- The same twelve with a register shifted by a register, none of them r15. -/
def Obligations.ShiftedByRegisterResults : Prop :=
  ∀ (s : State) (c : Cond) (f : Bool) (rn rd : Reg) (op : RsrOp), Cond.passes c s.flags = true → rd ≠ 15 →
    op.rm ≠ 15 → op.rs ≠ 15 →
    let o := byRegister s op
    (∀ r ∈ moveRows s o (.movRsr c f rd op) (.mvnRsr c f rd op), PutsResult r.instr s f rd r.value r.flags) ∧
    (rn ≠ 15 →
      (∀ r ∈ logicRows s (s.readReg rn) o (.andRsr c f rn rd op) (.eorRsr c f rn rd op) (.orrRsr c f rn rd op)
          (.bicRsr c f rn rd op), PutsResult r.instr s f rd r.value r.flags) ∧
      (∀ r ∈ arithRows s (s.readReg rn) o.op2 (.subRsr c f rn rd op) (.rsbRsr c f rn rd op) (.addRsr c f rn rd op)
          (.adcRsr c f rn rd op) (.sbcRsr c f rn rd op) (.rscRsr c f rn rd op),
        PutsResult r.instr s f rd r.value r.flags))

/-- TST, TEQ, CMP and CMN in their three operand forms: the flags, and no register. -/
def Obligations.CompareResults : Prop :=
  ∀ (s : State) (c : Cond) (rn : Reg), Cond.passes c s.flags = true →
    (∀ op : ImmOp, ∀ r ∈ compareRows s (s.readReg rn) (immShifted op s.flags.c) (.tstImm c rn op) (.teqImm c rn op)
      (.cmpImm c rn op) (.cmnImm c rn op), SetsFlags r.instr s r.flags) ∧
    (∀ op : RsiOp, ∀ r ∈ compareRows s (s.readReg rn)
      (shiftImm op.shift (s.readReg op.rm) op.amount.toNat s.flags.c) (.tstRsi c rn op) (.teqRsi c rn op)
      (.cmpRsi c rn op) (.cmnRsi c rn op), SetsFlags r.instr s r.flags) ∧
    (∀ op : RsrOp, rn ≠ 15 → op.rm ≠ 15 → op.rs ≠ 15 →
      ∀ r ∈ compareRows s (s.readReg rn) (byRegister s op) (.tstRsr c rn op) (.teqRsr c rn op) (.cmpRsr c rn op)
        (.cmnRsr c rn op), SetsFlags r.instr s r.flags)

/-- Rd = 15 with S = 0: the result is the new PC, unaligned bits and all, and nothing else changes. -/
def Obligations.PcResults : Prop :=
  ∀ (s : State) (c : Cond) (rn : Reg), Cond.passes c s.flags = true →
    (∀ op : ImmOp, ∀ r ∈ immRows s c false rn 15 op, JumpsTo r.instr s r.value) ∧
    (∀ op : RsiOp, ∀ r ∈ rsiRows s c false rn 15 op, JumpsTo r.instr s r.value)

/-- Rd = 15 with S = 1: without an SPSR a protocol violation, with an SPSR of T = 1 or an invalid mode a refusal, and
otherwise the result is the new PC and CPSR is the SPSR whole. -/
def Obligations.SpsrRestores : Prop :=
  ∀ (s : State) (c : Cond) (rn : Reg) (i : ImmOp) (o : RsiOp), Cond.passes c s.flags = true →
    ∀ r ∈ immRows s c true rn 15 i ++ rsiRows s c true rn 15 o,
      (s.mode.spsrCell = none → Raises r.instr s (.protocolViolation .noSpsr)) ∧
      (∀ k, s.mode.spsrCell = some k →
        (¬ValidStatus (s.spsr.get k) → Refuses r.instr s .badSpsrRestore) ∧
        (ValidStatus (s.spsr.get k) →
          Completes r.instr s fun t => t.pc = r.value ∧ t.cpsr = s.spsr.get k ∧ t.regs = s.regs ∧ SameSystem s t ∧
            SameBytes s t ∧ SameDevices s t))

/-- The register and field restrictions of the register-shifted forms, of the multiplies and of CLZ: refused, and
nothing changes. That a register-shifted form with Rd = 15 and S = 1 is refused before its SPSR is looked at is the
model's choice (log 9). -/
def Obligations.RegisterRefusals : Prop :=
  ∀ (s : State) (c : Cond), Cond.passes c s.flags = true →
    (∀ (f : Bool) (rn rd : Reg) (op : RsrOp), rd = 15 ∨ rn = 15 ∨ op.rm = 15 ∨ op.rs = 15 →
      ∀ i ∈ [Instr.andRsr c f rn rd op, .eorRsr c f rn rd op, .subRsr c f rn rd op, .rsbRsr c f rn rd op,
          .addRsr c f rn rd op, .adcRsr c f rn rd op, .sbcRsr c f rn rd op, .rscRsr c f rn rd op,
          .orrRsr c f rn rd op, .bicRsr c f rn rd op], Refuses i s .unpredictable) ∧
    (∀ (f : Bool) (rd : Reg) (op : RsrOp), rd = 15 ∨ op.rm = 15 ∨ op.rs = 15 →
      ∀ i ∈ [Instr.movRsr c f rd op, .mvnRsr c f rd op, .tstRsr c rd op, .teqRsr c rd op, .cmpRsr c rd op,
          .cmnRsr c rd op], Refuses i s .unpredictable) ∧
    (∀ (f : Bool) (rd rs rm : Reg), rd = 15 ∨ rs = 15 ∨ rm = 15 ∨ rd = rm →
      Refuses (.mul c f rd rs rm) s .unpredictable) ∧
    (∀ (f : Bool) (rd rn rs rm : Reg), rd = 15 ∨ rn = 15 ∨ rs = 15 ∨ rm = 15 ∨ rd = rm →
      Refuses (.mla c f rd rn rs rm) s .unpredictable) ∧
    (∀ (f : Bool) (hi lo rs rm : Reg), hi = 15 ∨ lo = 15 ∨ rs = 15 ∨ rm = 15 ∨ hi = lo ∨ hi = rm ∨ lo = rm →
      ∀ i ∈ [Instr.umull c f hi lo rs rm, .umlal c f hi lo rs rm, .smull c f hi lo rs rm, .smlal c f hi lo rs rm],
        Refuses i s .unpredictable) ∧
    (∀ rd rm : Reg, rd = 15 ∨ rm = 15 → Refuses (.clz c rd rm) s .unpredictable)

/-- The shifter, case by case as the spec's summary table: the operand and the carry-out of every form and amount. -/
def Obligations.ShifterTable : Prop :=
  ∀ (v : Word) (c : Bool) (op : ImmOp) (n : Nat),
    (op.rot = 0 → immShifted op c = ⟨op.imm.setWidth 32, c⟩) ∧
    (op.rot ≠ 0 → immShifted op c = ⟨(op.imm.setWidth 32).rotateRight (2 * op.rot.toNat),
      ((op.imm.setWidth 32 : Word).rotateRight (2 * op.rot.toNat)).getLsbD 31⟩) ∧
    shiftImm .lsl v 0 c = ⟨v, c⟩ ∧ shiftImm .lsr v 0 c = ⟨0, v.getLsbD 31⟩ ∧
    shiftImm .asr v 0 c = ⟨BitVec.fill 32 (v.getLsbD 31), v.getLsbD 31⟩ ∧
    shiftImm .ror v 0 c = ⟨((BitVec.ofBool c).setWidth 32 <<< 31) ||| (v >>> 1), v.getLsbD 0⟩ ∧
    (∀ k, shiftReg k v 0 c = ⟨v, c⟩) ∧
    (1 ≤ n → n ≤ 31 →
      (shiftImm .lsl v n c = ⟨v <<< n, v.getLsbD (32 - n)⟩ ∧ shiftReg .lsl v n c = ⟨v <<< n, v.getLsbD (32 - n)⟩) ∧
      (shiftImm .lsr v n c = ⟨v >>> n, v.getLsbD (n - 1)⟩ ∧ shiftReg .lsr v n c = ⟨v >>> n, v.getLsbD (n - 1)⟩) ∧
      (shiftImm .asr v n c = ⟨v.sshiftRight n, v.getLsbD (n - 1)⟩ ∧
        shiftReg .asr v n c = ⟨v.sshiftRight n, v.getLsbD (n - 1)⟩) ∧
      shiftImm .ror v n c = ⟨v.rotateRight n, v.getLsbD (n - 1)⟩) ∧
    shiftReg .lsl v 32 c = ⟨0, v.getLsbD 0⟩ ∧ shiftReg .lsr v 32 c = ⟨0, v.getLsbD 31⟩ ∧
    (32 < n → shiftReg .lsl v n c = ⟨0, false⟩ ∧ shiftReg .lsr v n c = ⟨0, false⟩) ∧
    (32 ≤ n → shiftReg .asr v n c = ⟨BitVec.fill 32 (v.getLsbD 31), v.getLsbD 31⟩) ∧
    (n ≠ 0 → n % 32 = 0 → shiftReg .ror v n c = ⟨v, v.getLsbD 31⟩) ∧
    (n % 32 ≠ 0 → shiftReg .ror v n c = ⟨v.rotateRight (n % 32), v.getLsbD (n % 32 - 1)⟩)

/-- What the shifts are as arithmetic, for every register amount of 1 or more: a product, a quotient and a floored
quotient by 2^n, with the carry-out the last bit that left the word; a rotation keeps every bit. -/
def Obligations.ShiftsAreArithmetic : Prop :=
  ∀ (v : Word) (c : Bool) (n : Nat), 1 ≤ n →
    (shiftReg .lsl v n c).op2.toNat = v.toNat * 2 ^ n % 2 ^ 32 ∧
    ((shiftReg .lsl v n c).carry = true ↔ v.toNat * 2 ^ n / 2 ^ 32 % 2 = 1) ∧
    (shiftReg .lsr v n c).op2.toNat = v.toNat / 2 ^ n ∧
    ((shiftReg .lsr v n c).carry = true ↔ v.toNat / 2 ^ (n - 1) % 2 = 1) ∧
    (shiftReg .asr v n c).op2.toInt = v.toInt / 2 ^ n ∧
    ((shiftReg .asr v n c).carry = true ↔ v.toInt / 2 ^ (n - 1) % 2 = 1) ∧
    (∀ k, k < 32 → (shiftReg .ror v n c).op2.getLsbD k = v.getLsbD ((k + n) % 32)) ∧
    (shiftReg .ror v n c).carry = (shiftReg .ror v n c).op2.getLsbD 31

/-- The C and V of an addition and of a subtraction say when the exact result leaves the unsigned and the signed range,
with any carry in. -/
def Obligations.FlagsAreExact : Prop :=
  ∀ (a b : Word) (c : Bool),
    let r := addResult a b c
    let q := subResult a b c
    r.value.toNat + (if r.carry then 2 ^ 32 else 0) = a.toNat + b.toNat + c.toNat ∧
    (r.overflow = true ↔ r.value.toInt ≠ a.toInt + b.toInt + c.toNat) ∧
    (q.value.toNat : Int) - (if q.carry then 0 else 2 ^ 32) = (a.toNat : Int) - b.toNat - (1 - c.toNat) ∧
    (q.overflow = true ↔ q.value.toInt ≠ a.toInt - b.toInt - (1 - c.toNat))

/-- After CMP, in its three operand forms, the conditions compare the operands: EQ and NE for equality, CS, CC, HI and LS
as unsigned numbers, GE, LT, GT and LE as signed ones. -/
def Obligations.CompareOrders : Prop :=
  ∀ (s : State) (c : Cond) (rn : Reg), Cond.passes c s.flags = true →
    (∀ op : ImmOp, ComparesAs (.cmpImm c rn op) s (s.readReg rn) (immShifted op s.flags.c).op2) ∧
    (∀ op : RsiOp, ComparesAs (.cmpRsi c rn op) s (s.readReg rn) (scaled s op)) ∧
    (∀ op : RsrOp, rn ≠ 15 → op.rm ≠ 15 → op.rs ≠ 15 →
      ComparesAs (.cmpRsr c rn op) s (s.readReg rn) (byRegister s op).op2)

/-! ### Multiplies and CLZ -/

/-- MUL and MLA: the low 32 bits of the product, and with S = 1 its N and Z. -/
def Obligations.MultiplyResults : Prop :=
  ∀ (s : State) (c : Cond) (f : Bool) (rd rn rs rm : Reg), Cond.passes c s.flags = true →
    rd ≠ 15 → rs ≠ 15 → rm ≠ 15 → rd ≠ rm →
    let p := BitVec.ofNat 32 ((s.readReg rm).toNat * (s.readReg rs).toNat)
    let q := BitVec.ofNat 32 ((s.readReg rm).toNat * (s.readReg rs).toNat + (s.readReg rn).toNat)
    PutsResult (.mul c f rd rs rm) s f rd p ⟨p.getLsbD 31, p == 0, s.flags.c, s.flags.v⟩ ∧
    (rn ≠ 15 → PutsResult (.mla c f rd rn rs rm) s f rd q ⟨q.getLsbD 31, q == 0, s.flags.c, s.flags.v⟩)

/-- UMULL, UMLAL, SMULL and SMLAL: the 64-bit product of the unsigned or signed operands, accumulated or not, in RdHi
and RdLo, and with S = 1 its N and Z. -/
def Obligations.LongMultiplyResults : Prop :=
  ∀ (s : State) (c : Cond) (f : Bool) (hi lo rs rm : Reg), Cond.passes c s.flags = true →
    hi ≠ 15 → lo ≠ 15 → rs ≠ 15 → rm ≠ 15 → hi ≠ lo → hi ≠ rm → lo ≠ rm →
    let u := ((s.readReg rm).toNat : Int) * (s.readReg rs).toNat
    let v := (s.readReg rm).toInt * (s.readReg rs).toInt
    let acc := ((s.readReg hi).toNat : Int) * 2 ^ 32 + (s.readReg lo).toNat
    ∀ x ∈ [(Instr.umull c f hi lo rs rm, u), (.umlal c f hi lo rs rm, u + acc), (.smull c f hi lo rs rm, v),
        (.smlal c f hi lo rs rm, v + acc)],
      let p := BitVec.ofInt 64 x.2
      Completes x.1 s fun t =>
        Holds s t lo (p.extractLsb' 0 32) ∧ Holds s t hi (p.extractLsb' 32 32) ∧ t.pc = s.pc + 4 ∧
        t.flags = (if f then ⟨p.getLsbD 63, p == 0, s.flags.c, s.flags.v⟩ else s.flags) ∧
        OnlyRegs (s.cellsOf hi ++ s.cellsOf lo) s t

/-- CLZ: 32 of zero, else 31 less the index of the highest set bit; no flag. -/
def Obligations.ClzResult : Prop :=
  ∀ (s : State) (c : Cond) (rd rm : Reg), Cond.passes c s.flags = true → rd ≠ 15 → rm ≠ 15 →
    (s.readReg rm = 0 → PutsResult (.clz c rd rm) s false rd 32 s.flags) ∧
    (∀ k, k < 32 → (s.readReg rm).getLsbD k = true → (∀ j, k < j → (s.readReg rm).getLsbD j = false) →
      PutsResult (.clz c rd rm) s false rd (BitVec.ofNat 32 (31 - k)) s.flags)

/-! ### Status registers -/

/-- MRS: CPSR, or the current mode's SPSR, into Rd. That a missing SPSR comes before Rd = 15 is the model's choice (log 9). -/
def Obligations.MrsReads : Prop :=
  ∀ (s : State) (c : Cond) (rd : Reg), Cond.passes c s.flags = true →
    (rd ≠ 15 → PutsResult (.mrs c false rd) s false rd s.cpsr s.flags) ∧
    (∀ k, s.mode.spsrCell = some k → rd ≠ 15 → PutsResult (.mrs c true rd) s false rd (s.spsr.get k) s.flags) ∧
    (s.mode.spsrCell = none → Raises (.mrs c true rd) s (.protocolViolation .noSpsr)) ∧
    Refuses (.mrs c false 15) s .unpredictable ∧
    (s.mode.spsrCell ≠ none → Refuses (.mrs c true 15) s .unpredictable)

/-- MSR CPSR, both forms, when no check stops it: the selected bytes of CPSR are the operand's, the others and every
other state but the PC are as they were. -/
def Obligations.MsrWritesCpsr : Prop :=
  ∀ (s : State) (c : Cond) (mask : BitVec 4) (imm : ImmOp) (rm : Reg) (new : Word), Cond.passes c s.flags = true →
    rm ≠ 15 → (s.mode = .usr → mask.getLsbD 0 = false) →
    ∀ x ∈ msrForms s c false mask imm rm, ¬WritesReserved mask x.2 → Merges s.cpsr x.2 mask new → ValidStatus new →
      Completes x.1 s fun t =>
        t.cpsr = new ∧ t.pc = s.pc + 4 ∧ t.regs = s.regs ∧ SameSystem s t ∧ SameBytes s t ∧ SameDevices s t

/-- MSR SPSR, both forms, in a mode with an SPSR and when no check stops it: the selected bytes of that SPSR are the
operand's; no other SPSR, nor any other state but the PC, changes. That a field mask of 0 writes nothing even where the
SPSR holds an invalid value is the model's choice (log 15). -/
def Obligations.MsrWritesSpsr : Prop :=
  ∀ (s : State) (c : Cond) (mask : BitVec 4) (imm : ImmOp) (rm : Reg) (new : Word) (k : SpsrCell),
    Cond.passes c s.flags = true → rm ≠ 15 → s.mode.spsrCell = some k →
    ∀ x ∈ msrForms s c true mask imm rm, ¬WritesReserved mask x.2 → Merges (s.spsr.get k) x.2 mask new →
      (mask ≠ 0 → ValidStatus new) →
      Completes x.1 s fun t =>
        t.spsr.get k = new ∧ (∀ j, j ≠ k → t.spsr.get j = s.spsr.get j) ∧ t.pc = s.pc + 4 ∧ t.cpsr = s.cpsr ∧
        t.regs = s.regs ∧ t.cp15 = s.cp15 ∧ t.stop = s.stop ∧ t.params = s.params ∧ SameBytes s t ∧ SameDevices s t

/-- What stops an MSR, first check first: no SPSR in the mode; a reserved bit written; Rm = 15 in the register form; then
the control byte of CPSR in usr mode; then a status value with T = 1 or an invalid mode. Nothing changes. The place of
Rm = 15 in the order is the model's choice (log 9), and so is that a field mask of 0 is not asked for a valid SPSR
(log 15). -/
def Obligations.MsrStops : Prop :=
  ∀ (s : State) (c : Cond) (mask : BitVec 4) (imm : ImmOp) (rm : Reg), Cond.passes c s.flags = true →
    (s.mode.spsrCell = none → ∀ x ∈ msrForms s c true mask imm rm, Raises x.1 s (.protocolViolation .noSpsr)) ∧
    (∀ r, (r = true → s.mode.spsrCell ≠ none) → ∀ x ∈ msrForms s c r mask imm rm, WritesReserved mask x.2 →
      Raises x.1 s (.protocolViolation .reservedStatusBits)) ∧
    (∀ r, (r = true → s.mode.spsrCell ≠ none) → ¬WritesReserved mask (s.readReg 15) →
      Refuses (.msrReg c r mask 15) s .unpredictable) ∧
    (rm ≠ 15 → s.mode = .usr → mask.getLsbD 0 = true → ∀ x ∈ msrForms s c false mask imm rm,
      ¬WritesReserved mask x.2 → Refuses x.1 s .userControlWrite) ∧
    (rm ≠ 15 → ¬(s.mode = .usr ∧ mask.getLsbD 0 = true) → ∀ x ∈ msrForms s c false mask imm rm,
      ∀ new, ¬WritesReserved mask x.2 → Merges s.cpsr x.2 mask new → ¬ValidStatus new →
      Refuses x.1 s .badStatusValue) ∧
    (rm ≠ 15 → mask ≠ 0 → ∀ k, s.mode.spsrCell = some k → ∀ x ∈ msrForms s c true mask imm rm,
      ∀ new, ¬WritesReserved mask x.2 → Merges (s.spsr.get k) x.2 mask new → ¬ValidStatus new →
      Refuses x.1 s .badStatusValue)

/-! ### Branches -/

/-- B and BL: the target is A + 8 + 4 × the signed offset; BL leaves A + 4 in the current r14. -/
def Obligations.BranchResults : Prop :=
  ∀ (s : State) (c : Cond) (off : BitVec 24), Cond.passes c s.flags = true →
    let target := s.pc + 8 + BitVec.ofInt 32 (4 * off.toInt)
    JumpsTo (.b c off) s target ∧
    Completes (.bl c off) s fun t =>
      t.pc = target ∧ Holds s t 14 (s.pc + 4) ∧ t.flags = s.flags ∧ OnlyRegs (s.cellsOf 14) s t

/-- BX and BLX: a branch to an even register value, r15 read as A + 8 by BX and refused by BLX; BLX leaves A + 4 in the
current r14 after the target is read; an odd value is refused. -/
def Obligations.ExchangeResults : Prop :=
  ∀ (s : State) (c : Cond) (rm : Reg), Cond.passes c s.flags = true →
    ((s.readReg rm).getLsbD 0 = false → JumpsTo (.bx c rm) s (s.readReg rm)) ∧
    ((s.readReg rm).getLsbD 0 = true → Refuses (.bx c rm) s .thumbUnsupported) ∧
    (rm = 15 → s.readReg rm = s.pc + 8 ∧ Refuses (.blxReg c rm) s .unpredictable) ∧
    (rm ≠ 15 → (s.readReg rm).getLsbD 0 = true → Refuses (.blxReg c rm) s .thumbUnsupported) ∧
    (rm ≠ 15 → (s.readReg rm).getLsbD 0 = false → Completes (.blxReg c rm) s fun t =>
      t.pc = s.readReg rm ∧ Holds s t 14 (s.pc + 4) ∧ t.flags = s.flags ∧ OnlyRegs (s.cellsOf 14) s t)

/-! ### Single transfers -/

/-- LDR and LDRT of ordinary memory: the word at an aligned address; and with Control.A = U = 0, at a misaligned address,
the aligned word rotated right by 8 × the low two bits. -/
def Obligations.WordLoadResults : Prop :=
  ∀ (s : State) (c : Cond) (u w : Bool) (rn rd : Reg) (off : BitVec 12) (op : RsiOp) (pa : Word),
    Cond.passes c s.flags = true → ∀ x ∈ wordLoads s c u w rn rd off op, x.refused = false →
      Reaches s (x.wordVa s) .word .read x.priv pa →
      Completes x.instr s fun t =>
        Loaded x s t rn rd ((s.mem.load pa .word).rotateRight (8 * (x.addr.toNat % 4))) ∧ SameDevices s t

/-- LDRB, LDRBT, LDRH, LDRSB and LDRSH of ordinary memory: the value zero-extended or sign-extended. -/
def Obligations.NarrowLoadResults : Prop :=
  ∀ (s : State) (c : Cond) (p u w : Bool) (rn rd rm : Reg) (off : BitVec 12) (op : RsiOp) (off8 : BitVec 8) (pa : Word),
    Cond.passes c s.flags = true →
    ∀ x ∈ byteLoads s c u w rn rd off op ++ halfLoads s c p u w rn rd off8 rm, x.refused = false →
      Reaches s x.addr x.width .read x.priv pa →
      Completes x.instr s fun t => Loaded x s t rn rd (x.ext (s.mem.load pa x.width)) ∧ SameDevices s t

/-- STR and STRT of an aligned word of ordinary memory; r15 stores A + 8. That STRT with Rd = 15 runs, and stores A + 8 as
STR does, is the model's reading of the spec (log 13). -/
def Obligations.WordStoreResults : Prop :=
  ∀ (s : State) (c : Cond) (u w : Bool) (rn rd : Reg) (off : BitVec 12) (op : RsiOp) (pa : Word), s.mem.wf →
    Cond.passes c s.flags = true → ∀ x ∈ wordStores s c u w rn rd off op, x.refused = false →
      Reaches s x.addr .word .write x.priv pa →
      Completes x.instr s fun t => Stored x s t rn ∧ SameDevices s t ∧ BytesAt t pa .word (s.readReg rd) ∧
        SameBytesBut (InAccess pa .word) s t

/-- STRB, STRBT and STRH of ordinary memory. -/
def Obligations.NarrowStoreResults : Prop :=
  ∀ (s : State) (c : Cond) (p u w : Bool) (rn rd rm : Reg) (off : BitVec 12) (op : RsiOp) (off8 : BitVec 8) (pa : Word),
    s.mem.wf → Cond.passes c s.flags = true →
    ∀ x ∈ byteStores s c u w rn rd off op ++ halfStores s c p u w rn rd off8 rm, x.refused = false →
      Reaches s x.addr x.width .write x.priv pa →
      Completes x.instr s fun t => Stored x s t rn ∧ SameDevices s t ∧ BytesAt t pa x.width (s.readReg rd) ∧
        SameBytesBut (InAccess pa x.width) s t

/-- What R268 refuses of the single transfers and the swaps, before the write-back: nothing changes. -/
def Obligations.TransferRefusals : Prop :=
  ∀ (s : State) (c : Cond) (p u w : Bool) (rn rd rm : Reg) (off : BitVec 12) (op : RsiOp) (off8 : BitVec 8),
    Cond.passes c s.flags = true →
    (∀ x ∈ wordLoads s c u w rn rd off op ++ byteLoads s c u w rn rd off op ++ wordStores s c u w rn rd off op ++
        byteStores s c u w rn rd off op ++ halfLoads s c p u w rn rd off8 rm ++ halfStores s c p u w rn rd off8 rm,
      x.refused = true → Refuses x.instr s .unpredictable) ∧
    (rd = 15 ∨ rm = 15 ∨ rn = 15 ∨ rn = rm ∨ rn = rd →
      ∀ i ∈ [Instr.swp c rn rd rm, .swpb c rn rd rm], Refuses i s .unpredictable)

/-- A single transfer whose access faults: a misaligned one faults before translation (but for the rotated word load, which
translates the aligned address), an aligned one faults or is refused as its translation does; either way after the
write-back, which stays. That STRT with Rd = 15 gets so far is the model's reading (log 13). -/
def Obligations.AccessFaultsKeepWriteBack : Prop :=
  ∀ (s : State) (c : Cond) (p u w : Bool) (rn rd rm : Reg) (off : BitVec 12) (op : RsiOp) (off8 : BitVec 8),
    Cond.passes c s.flags = true →
    ∀ y ∈ (wordLoads s c u w rn rd off op ++ byteLoads s c u w rn rd off op ++
          halfLoads s c p u w rn rd off8 rm).map (·, Access.read) ++
        (wordStores s c u w rn rd off op ++ byteStores s c u w rn rd off op ++
          halfStores s c p u w rn rd off8 rm).map (·, Access.write),
      let x := y.1
      let t := x.backState s rn
      x.refused = false →
      (x.addr.toNat % x.width.bytes ≠ 0 →
        (y.2 = .read → x.width = .word → s.cp15.control.getLsbD 1 = true ∨ s.cp15.control.getLsbD 22 = true) →
        exec x.instr s = .fault (.alignment x.addr x.width.bytes y.2
          { t with stop := .fault (.alignment x.addr x.width.bytes y.2) s.pc })) ∧
      (x.addr.toNat % x.width.bytes = 0 →
        (∀ f, translate x.addr y.2 x.priv t = .fault f → exec x.instr s = .fault f) ∧
        (∀ r, translate x.addr y.2 x.priv t = .refused r → exec x.instr s = .refused r)) ∧
      (y.2 = .read → x.width = .word →
        (∀ f, translate (x.wordVa s) .read x.priv t = .fault f → misaligned (x.wordVa s) .word = false →
          exec x.instr s = .fault f) ∧
        (∀ r, translate (x.wordVa s) .read x.priv t = .refused r → misaligned (x.wordVa s) .word = false →
          exec x.instr s = .refused r))

/-- Single transfers that reach a device: a word load answers the device's value, a free value (the model's form of it,
log 5), and a word store hands it the register (r15 of STRT too, log 13); both are recorded and leave memory as it is. A
narrower access is refused, after the write-back. -/
def Obligations.DeviceTransfers : Prop :=
  ∀ (s : State) (c : Cond) (p u w : Bool) (rn rd rm : Reg) (off : BitVec 12) (op : RsiOp) (off8 : BitVec 8) (pa : Word)
    (k : Nat) (d : Device), Cond.passes c s.flags = true →
    (∀ x ∈ wordLoads s c u w rn rd off op, x.refused = false → ReachesDevice s (x.wordVa s) .word .read x.priv pa k d →
      Completes x.instr s fun t => Loaded x s t rn rd
          ((Config.deviceRead s.draws k (pa - d.first)).rotateRight (8 * (x.addr.toNat % 4))) ∧
        t.draws = s.draws + 1 ∧ t.devLog = s.devLog ++ [.read k (pa - d.first)]) ∧
    (∀ x ∈ wordStores s c u w rn rd off op, x.refused = false → ReachesDevice s x.addr .word .write x.priv pa k d →
      Completes x.instr s fun t => Stored x s t rn ∧ SameBytes s t ∧ t.draws = s.draws ∧
        t.devLog = s.devLog ++ [.write k (pa - d.first) (s.readReg rd)]) ∧
    (∀ y ∈ (byteLoads s c u w rn rd off op ++ halfLoads s c p u w rn rd off8 rm).map (·, Access.read) ++
          (byteStores s c u w rn rd off op ++ halfStores s c p u w rn rd off8 rm).map (·, Access.write),
      y.1.refused = false → ReachesDevice s y.1.addr y.1.width y.2 y.1.priv pa k d →
      exec y.1.instr s = .refused (.subWordPeripheral
        { y.1.backState s rn with stop := .refusal .subWordPeripheral s.pc }))

/-- SWP and SWPB: the old word or byte of memory into Rd, Rm into memory, in that order; a misaligned SWP faults as a
read and changes nothing. -/
def Obligations.SwapResults : Prop :=
  ∀ (s : State) (c : Cond) (rn rd rm : Reg) (pa : Word), s.mem.wf → Cond.passes c s.flags = true →
    rd ≠ 15 → rm ≠ 15 → rn ≠ 15 → rn ≠ rm → rn ≠ rd →
    (∀ x ∈ [(Instr.swp c rn rd rm, Width.word), (.swpb c rn rd rm, .byte)],
      Reaches s (s.readReg rn) x.2 .read s.privileged pa → Reaches s (s.readReg rn) x.2 .write s.privileged pa →
      Completes x.1 s fun t =>
        Holds s t rd (s.mem.load pa x.2) ∧ BytesAt t pa x.2 (s.readReg rm) ∧ SameBytesBut (InAccess pa x.2) s t ∧
        t.pc = s.pc + 4 ∧ SameRegsBut (s.cellsOf rd) s t ∧ t.cpsr = s.cpsr ∧ SameSystem s t ∧ SameDevices s t) ∧
    ((s.readReg rn).toNat % 4 ≠ 0 → Raises (.swp c rn rd rm) s (.alignment (s.readReg rn) 4 .read))

/-! ### Block transfers -/

/-- The block addresses: the last listed register's word lies 4(n - 1) above the start, which is the end the spec's table
gives; register numbers rise with addresses. -/
def Obligations.BlockAddresses : Prop :=
  ∀ (s : State) (p u : Bool) (rn : Reg) (list : BitVec 16) (i : Reg), list.getLsbD i.val = true →
    (∀ j : Reg, list.getLsbD j.val = true → i ≤ j) → ∀ k : Reg, list.getLsbD k.val = true →
    (∀ j : Reg, list.getLsbD j.val = true → j ≤ k) →
    let n := (listRegs list).length
    let b := s.readReg rn
    blockStart p u b list = slot s p u rn list i ∧
    slot s p u rn list k =
      (match p, u with
       | false, true => b + BitVec.ofNat 32 (4 * n) - 4
       | true, true => b + BitVec.ofNat 32 (4 * n)
       | false, false => b
       | true, false => b - 4) ∧
    blockBack u b list = backOf u b n

/-- LDM(1) and LDM(2) of ordinary memory: each listed register, of the current bank or of the user bank, holds the
word of its address; r15 masks the low two bits of its word; the base is written back when W = 1. -/
def Obligations.LoadMultipleResults : Prop :=
  ∀ (s : State) (c : Cond) (p u w : Bool) (rn : Reg) (pa : Reg → Word), Cond.passes c s.flags = true →
    (∀ list : BitVec 16, blockBad w rn list = false → BlockReaches s p u rn list .read pa →
      Completes (.ldm1 c p u w rn list) s fun t =>
        (∀ i : Reg, list.getLsbD i.val = true → Holds s t i (s.mem.load (pa i) .word)) ∧
        t.pc = (if list.getLsbD 15 then s.mem.load (pa 15) .word &&& 0xFFFFFFFC#32 else s.pc + 4) ∧
        (w = true → Holds s t rn (backOf u (s.readReg rn) (below list 16))) ∧
        SameRegsBut (listCells s.mode list ++ if w then s.cellsOf rn else []) s t ∧ t.cpsr = s.cpsr ∧
        SameSystem s t ∧ SameBytes s t ∧ SameDevices s t) ∧
    (∀ list : BitVec 15, let l : BitVec 16 := list.setWidth 16
      blockBad w rn l = false → w = false → s.mode ≠ .usr → s.mode ≠ .sys → BlockReaches s p u rn l .read pa →
      Completes (.ldm2 c p u w rn list) s fun t =>
        (∀ (i : Reg) (k : Cell), l.getLsbD i.val = true → Mode.usr.cell i = some k →
          t.regs.get k = s.mem.load (pa i) .word) ∧
        t.pc = s.pc + 4 ∧ SameRegsBut (listCells .usr l) s t ∧ t.cpsr = s.cpsr ∧ SameSystem s t ∧ SameBytes s t ∧
        SameDevices s t)

/-- LDM(3) of ordinary memory: the listed registers of the old mode's bank, the masked PC, the write-back, and CPSR from
the SPSR; its checks before that. That the SPSR is looked at before the list and the base is the model's choice (log 9). -/
def Obligations.LoadMultipleReturns : Prop :=
  ∀ (s : State) (c : Cond) (p u w : Bool) (rn : Reg) (pa : Reg → Word) (list : BitVec 15),
    let l : BitVec 16 := list.setWidth 16 ||| 0x8000#16
    Cond.passes c s.flags = true →
    (s.mode.spsrCell = none → Raises (.ldm3 c p u w rn list) s (.protocolViolation .noSpsr)) ∧
    (∀ k, s.mode.spsrCell = some k →
      (¬ValidStatus (s.spsr.get k) → Refuses (.ldm3 c p u w rn list) s .badSpsrRestore) ∧
      (ValidStatus (s.spsr.get k) → blockBad w rn l = true → Refuses (.ldm3 c p u w rn list) s .unpredictable) ∧
      (ValidStatus (s.spsr.get k) → blockBad w rn l = false → BlockReaches s p u rn l .read pa →
        Completes (.ldm3 c p u w rn list) s fun t =>
          (∀ i : Reg, l.getLsbD i.val = true → Holds s t i (s.mem.load (pa i) .word)) ∧
          t.pc = s.mem.load (pa 15) .word &&& 0xFFFFFFFC#32 ∧ t.cpsr = s.spsr.get k ∧
          (w = true → Holds s t rn (backOf u (s.readReg rn) (below l 16))) ∧
          SameRegsBut (listCells s.mode l ++ if w then s.cellsOf rn else []) s t ∧
          SameSystem s t ∧ SameBytes s t ∧ SameDevices s t))

/-- STM(1) and STM(2) to ordinary memory: each listed register's word, of the current bank or of the user bank, at its
address (the last one stored where two addresses are one physical address), r15 as A + 8; the base is written back
when W = 1. -/
def Obligations.StoreMultipleResults : Prop :=
  ∀ (s : State) (c : Cond) (p u w : Bool) (rn : Reg) (pa : Reg → Word) (list : BitVec 16), s.mem.wf →
    Cond.passes c s.flags = true → blockBad w rn list = false → BlockReaches s p u rn list .write pa →
    BlockStable s p u rn list pa →
    ∀ x ∈ [(Instr.stm1 c p u w rn list, true, s.readReg), (.stm2 c p u w rn list, false, s.readAs .usr)],
      (x.2.1 = false → w = false ∧ s.mode ≠ .usr ∧ s.mode ≠ .sys) →
      Completes x.1 s fun t =>
        (∀ i : Reg, list.getLsbD i.val = true → (∀ j : Reg, list.getLsbD j.val = true → i < j → pa j ≠ pa i) →
          BytesAt t (pa i) .word (x.2.2 i)) ∧
        SameBytesBut (fun a => ∃ i : Reg, list.getLsbD i.val = true ∧ InAccess (pa i) .word a) s t ∧
        t.pc = s.pc + 4 ∧ (w = true → Holds s t rn (backOf u (s.readReg rn) (below list 16))) ∧
        SameRegsBut (if w then s.cellsOf rn else []) s t ∧ t.cpsr = s.cpsr ∧ SameSystem s t ∧ SameDevices s t

/-- Where the block transfers stop. What R299 refuses of each form, changing nothing. A misaligned start, whose first access
faults, changing nothing, in every form once its checks have passed. And an access of ordinary memory that stops
part-way: the words before it stay transferred, and there is no write-back, no PC and no CPSR written. -/
def Obligations.BlockStops : Prop :=
  ∀ (s : State) (c : Cond) (p u w : Bool) (rn : Reg) (list : BitVec 16) (low : BitVec 15),
    Cond.passes c s.flags = true →
    let l : BitVec 16 := low.setWidth 16
    (blockBad w rn list = true → Refuses (.ldm1 c p u w rn list) s .unpredictable ∧
      Refuses (.stm1 c p u w rn list) s .unpredictable) ∧
    (blockBad w rn l = true ∨ w = true ∨ s.mode = .usr ∨ s.mode = .sys →
      Refuses (.ldm2 c p u w rn low) s .unpredictable) ∧
    (blockBad w rn list = true ∨ w = true ∨ s.mode = .usr ∨ s.mode = .sys →
      Refuses (.stm2 c p u w rn list) s .unpredictable) ∧
    (∀ x ∈ blockLoads s c p u w rn list low, x.ready → blockBad w rn x.list = false →
      ((s.readReg rn).toNat % 4 ≠ 0 →
        Raises x.instr s (.alignment (startOf p u (s.readReg rn) (below x.list 16)) 4 .read)) ∧
      (∀ (k : Reg) (pa : Reg → Word), x.list.getLsbD k.val = true → LoadsUpTo s p u rn x.list k pa →
        let va := slot s p u rn x.list k
        (∀ r : FaultRecord, translate va .read s.privileged s = .fault (r.leaving { s with stop := .fault r s.pc }) →
          ∃ t, exec x.instr s = .fault (r.leaving t) ∧ LoadedPart x s t k pa (.fault r s.pc)) ∧
        (∀ q : RefusalReason,
          translate va .read s.privileged s = .refused (q.leaving { s with stop := .refusal q s.pc }) →
          ∃ t, exec x.instr s = .refused (q.leaving t) ∧ LoadedPart x s t k pa (.refusal q s.pc)))) ∧
    (∀ x ∈ blockStores s c p u w rn list, x.ready → blockBad w rn x.list = false →
      ((s.readReg rn).toNat % 4 ≠ 0 →
        Raises x.instr s (.alignment (startOf p u (s.readReg rn) (below x.list 16)) 4 .write)) ∧
      (∀ (k : Reg) (pa : Reg → Word), s.mem.wf → x.list.getLsbD k.val = true → StoresUpTo s p u rn x.list k pa →
        let va := slot s p u rn x.list k
        (∀ r : FaultRecord,
          (∀ m : Memory, SameBytesBut (StoredBefore x.list k pa) s { s with mem := m } →
            translate va .write s.privileged { s with mem := m } =
              .fault (r.leaving { s with mem := m, stop := .fault r s.pc })) →
          ∃ t, exec x.instr s = .fault (r.leaving t) ∧ StoredPart x s t k pa (.fault r s.pc)) ∧
        (∀ q : RefusalReason,
          (∀ m : Memory, SameBytesBut (StoredBefore x.list k pa) s { s with mem := m } →
            translate va .write s.privileged { s with mem := m } =
              .refused (q.leaving { s with mem := m, stop := .refusal q s.pc })) →
          ∃ t, exec x.instr s = .refused (q.leaving t) ∧ StoredPart x s t k pa (.refusal q s.pc))))

/-! ### CP15 -/

/-- MCR and MRC of the registers the core has, outside usr mode, with any opcode_1 and CRm: Control (bit 7 clear), TTB and
DACR are written and read, Main ID and Cache Type are read, and the maintenance operations c7 and c8 only advance the
PC. -/
def Obligations.Cp15Transfers : Prop :=
  ∀ (s : State) (c : Cond) (op1 op2 : BitVec 3) (crm : BitVec 4) (rd : Reg), Cond.passes c s.flags = true →
    s.mode ≠ .usr → rd ≠ 15 →
    let mcr := fun (crn : BitVec 4) (o : BitVec 3) (new : Cp15) =>
      Completes (.mcr c op1 crn rd 15 o crm) s fun t => t.cp15 = new ∧ t.pc = s.pc + 4 ∧ t.regs = s.regs ∧
        t.cpsr = s.cpsr ∧ t.spsr = s.spsr ∧ t.stop = s.stop ∧ t.params = s.params ∧ SameBytes s t ∧ SameDevices s t
    let mrc := fun (crn : BitVec 4) (o : BitVec 3) (v : Word) =>
      PutsResult (.mrc c op1 crn rd 15 o crm) s false rd v s.flags
    ((s.readReg rd).getLsbD 7 = false → mcr 1 0 { s.cp15 with control := s.readReg rd }) ∧
    mcr 2 0 { s.cp15 with ttb := s.readReg rd } ∧ mcr 3 0 { s.cp15 with dacr := s.readReg rd } ∧
    mcr 7 op2 s.cp15 ∧ mcr 8 op2 s.cp15 ∧
    mrc 0 0 s.cp15.mainId ∧ mrc 0 1 s.cp15.cacheType ∧ mrc 1 0 s.cp15.control ∧ mrc 2 0 s.cp15.ttb ∧
    mrc 3 0 s.cp15.dacr

/-- What stops MCR and MRC, first check first: another coprocessor; usr mode; Rd = 15; a register the core does not have
(for MCR the read-only ones too); and a Control value with bit 7 set. Nothing changes. -/
def Obligations.Cp15Stops : Prop :=
  ∀ (s : State) (c : Cond) (op1 op2 : BitVec 3) (crn crm cp : BitVec 4) (rd : Reg), Cond.passes c s.flags = true →
    let both := fun (q : Instr → Prop) => q (.mcr c op1 crn rd cp op2 crm) ∧ q (.mrc c op1 crn rd cp op2 crm)
    (cp ≠ 15 → both fun i => Raises i s (.protocolViolation .coprocessorUnhandled)) ∧
    (cp = 15 → s.mode = .usr → both fun i => Refuses i s .userModeCP15) ∧
    (cp = 15 → s.mode ≠ .usr → rd = 15 → both fun i => Refuses i s .unpredictable) ∧
    (cp = 15 → s.mode ≠ .usr → rd ≠ 15 →
      (¬((crn = 1 ∨ crn = 2 ∨ crn = 3) ∧ op2 = 0) → crn ≠ 7 → crn ≠ 8 →
        Raises (.mcr c op1 crn rd cp op2 crm) s (.protocolViolation .coprocessorUnhandled)) ∧
      (¬((crn = 0 ∧ (op2 = 0 ∨ op2 = 1)) ∨ ((crn = 1 ∨ crn = 2 ∨ crn = 3) ∧ op2 = 0)) →
        Raises (.mrc c op1 crn rd cp op2 crm) s (.protocolViolation .coprocessorUnhandled)) ∧
      (crn = 1 → op2 = 0 → (s.readReg rd).getLsbD 7 = true →
        Refuses (.mcr c op1 crn rd cp op2 crm) s .bigEndianUnsupported))

/-! ### Exceptions -/

/-- SWI and BKPT take their exception: the mode changes to svc or abt with T = 0 and I = 1, F and the flags as they
were; the new mode's SPSR holds the old CPSR and its r14 A + 4; the PC goes to offset 0x08 or 0x0C of the low or the
high vectors. -/
def Obligations.ExceptionEntries : Prop :=
  ∀ (s : State) (c : Cond) (imm : BitVec 24) (imm16 : BitVec 16),
    let base : Word := if s.cp15.control.getLsbD 13 then 0xFFFF0000 else 0
    ∀ x ∈ [(Instr.swi c imm, c, Mode.svc, SpsrCell.svc, Cell.r14_svc, (0x08 : Word)),
        (.bkpt .al imm16, .al, .abt, .abt, .r14_abt, 0x0C)],
      Cond.passes x.2.1 s.flags = true →
      Completes x.1 s fun t =>
        t.cpsr.extractLsb' 0 5 = x.2.2.1.bits ∧ t.cpsr.getLsbD 5 = false ∧ t.cpsr.getLsbD 6 = s.cpsr.getLsbD 6 ∧
        t.cpsr.getLsbD 7 = true ∧ t.cpsr.extractLsb' 8 24 = s.cpsr.extractLsb' 8 24 ∧
        t.spsr.get x.2.2.2.1 = s.cpsr ∧ (∀ j, j ≠ x.2.2.2.1 → t.spsr.get j = s.spsr.get j) ∧
        t.regs.get x.2.2.2.2.1 = s.pc + 4 ∧ SameRegsBut [x.2.2.2.2.1] s t ∧ t.pc = base + x.2.2.2.2.2 ∧
        t.cp15 = s.cp15 ∧ t.stop = s.stop ∧ t.params = s.params ∧ SameBytes s t ∧ SameDevices s t

/-- SWI, then MOVS pc, lr: back at the next instruction with the status as it was. -/
def Obligations.SwiReturns : Prop :=
  ∀ (s : State) (imm : BitVec 24), statusValid s.cpsr = true →
    Completes (.swi .al imm) s fun t => Completes (.movRsi .al true 15 ⟨0, .lsl, 14⟩) t fun q =>
      q.pc = s.pc + 4 ∧ q.cpsr = s.cpsr ∧ SameRegsBut [.r14_svc] s q ∧
      (∀ j, j ≠ SpsrCell.svc → q.spsr.get j = s.spsr.get j) ∧ q.cp15 = s.cp15 ∧ SameBytes s q ∧ SameDevices s q

/-! ### Translation -/

/-- Translation with the MMU off is the identity; with it on, it answers an address exactly when the first-level
descriptor is a section, or a table whose second-level descriptor is a page, and the domain and permission checks
pass; the address is the descriptor's base with the low bits of va. -/
def Obligations.TranslationResults : Prop :=
  ∀ (s : State) (va pa : Word) (acc : Access) (priv : Bool),
    (s.cp15.control.getLsbD 0 = false → translate va acc priv s = .next va) ∧
    (s.cp15.control.getLsbD 0 = true →
      let l1 := firstDescriptor s va
      let d := l1.extractLsb' 5 4
      let l2 := secondDescriptor s va
      let ap := fun k : Nat => (l2 >>> (4 + 2 * k)).extractLsb' 0 2
      (translate va acc priv s = .next pa ↔
        (l1.extractLsb' 0 2 = 2 ∧ CheckPasses s d (l1.extractLsb' 10 2) acc priv ∧
          pa.toNat = l1.toNat / 2 ^ 20 * 2 ^ 20 + va.toNat % 2 ^ 20) ∨
        ((l1.extractLsb' 0 2 = 1 ∨ l1.extractLsb' 0 2 = 3) ∧
          ((l2.extractLsb' 0 2 = 1 ∧ CheckPasses s d (ap (va.toNat / 2 ^ 14 % 4)) acc priv ∧
              pa.toNat = l2.toNat / 2 ^ 16 * 2 ^ 16 + va.toNat % 2 ^ 16) ∨
            (l2.extractLsb' 0 2 = 2 ∧ CheckPasses s d (ap (va.toNat / 2 ^ 10 % 4)) acc priv ∧
              pa.toNat = l2.toNat / 2 ^ 12 * 2 ^ 12 + va.toNat % 2 ^ 12) ∨
            (l2.extractLsb' 0 2 = 3 ∧ CheckPasses s d (ap 0) acc priv ∧
              pa.toNat = l2.toNat / 2 ^ 10 * 2 ^ 10 + va.toNat % 2 ^ 10)))))

/-- Why a translation stops, first cause first: a descriptor of type 0, then the domain, then the access permission; the
combination AP = 0 with S = R = 1 is refused. Only the stop record changes. -/
def Obligations.TranslationStops : Prop :=
  ∀ (s : State) (va : Word) (acc : Access) (priv : Bool), s.cp15.control.getLsbD 0 = true →
    let stops := fun r : FaultRecord => translate va acc priv s = .fault (r.leaving { s with stop := .fault r s.pc })
    let l1 := firstDescriptor s va
    let d := l1.extractLsb' 5 4
    let dac := (s.cp15.dacr >>> (2 * d.toNat)).extractLsb' 0 2
    let l2 := secondDescriptor s va
    let check := fun (ap : BitVec 2) (level : Level) =>
      (dac = 0 ∨ dac = 2 → stops (.domain va acc d level)) ∧
      (dac = 1 → (∀ m, apTable ap s.sysProt s.romProt priv = some m → m.allows acc = false →
          stops (.permission va acc d ap level)) ∧
        (apTable ap s.sysProt s.romProt priv = none →
          translate va acc priv s = .refused (.apSR11 { s with stop := .refusal .apSR11 s.pc })))
    (l1.extractLsb' 0 2 = 0 → stops (.translation .sect va acc)) ∧
    (l1.extractLsb' 0 2 = 2 → check (l1.extractLsb' 10 2) .sect) ∧
    (l1.extractLsb' 0 2 = 1 ∨ l1.extractLsb' 0 2 = 3 →
      (l2.extractLsb' 0 2 = 0 → stops (.translation .page va acc)) ∧
      (l2.extractLsb' 0 2 = 1 → check ((l2 >>> (4 + 2 * (va.toNat / 2 ^ 14 % 4))).extractLsb' 0 2) .page) ∧
      (l2.extractLsb' 0 2 = 2 → check ((l2 >>> (4 + 2 * (va.toNat / 2 ^ 10 % 4))).extractLsb' 0 2) .page) ∧
      (l2.extractLsb' 0 2 = 3 → check (l2.extractLsb' 4 2) .page))

/-- The AP permission table; execute goes with read. -/
def Obligations.PermissionTable : Prop :=
  ∀ (ap : BitVec 2) (sys rom priv : Bool),
    (ap = 0 → sys = true → rom = true → apTable ap sys rom priv = none) ∧
    (¬(ap = 0 ∧ sys = true ∧ rom = true) → ∃ m, apTable ap sys rom priv = some m ∧
      (m.allows .execute = m.allows .read) ∧
      (m.allows .read = true ↔
        (ap = 0 ∧ ((sys = true ∧ priv = true) ∨ rom = true)) ∨ (ap = 1 ∧ priv = true) ∨ ap = 2 ∨ ap = 3) ∧
      (m.allows .write = true ↔ ((ap = 1 ∨ ap = 2) ∧ priv = true) ∨ ap = 3))

/-- Translation reads memory and CP15 alone, keeps the offset within the smallest page, and allows with privilege
whatever it allows without. -/
def Obligations.TranslationLaws : Prop :=
  ∀ (s t : State) (va pa : Word) (acc : Access) (priv : Bool), translate va acc priv s = .next pa →
    (t.mem = s.mem → t.cp15 = s.cp15 → translate va acc priv t = .next pa) ∧
    pa.toNat % 2 ^ 10 = va.toNat % 2 ^ 10 ∧ translate va acc true s = .next pa

/-! ### Memory -/

/-- The memory store: a byte reads what was last written to it and every other byte as before, a write and a store keep
the canonical form, memories that read alike are equal, and a word reads back as stored, little-endian. -/
def Obligations.MemoryLaws : Prop :=
  ∀ (m : Memory) (pa v : Word) (b : Byte) (n : Width), m.wf →
    (∀ a x : Nat, (m.write a b).read x = if x = a then b else m.read x) ∧
    (∀ a : Nat, a < 2 ^ 32 → (m.write a b).wf) ∧ (m.store pa v n).wf ∧
    (∀ m' : Memory, m'.wf → (∀ a, m'.read a = m.read a) → m' = m) ∧
    (m.store pa v .word).load pa .word = v ∧
    (∀ k, k < n.bytes → (m.store pa v n).read (pa + BitVec.ofNat 32 k).toNat = v.extractLsb' (8 * k) 8) ∧
    (∀ a, ¬InAccess pa n a → (m.store pa v n).read a = m.read a)

/-! ### The whole machine -/

/-- Every step keeps the invariant: memory in canonical form, every status register with bits 27:8 zero, CPSR with T = 0
and a valid mode, Control.B = 0. So does what a stopped step leaves. -/
def Obligations.StepKeepsInv : Prop :=
  ∀ s : State, s.Inv →
    (∀ t, step s = .next t → t.Inv) ∧ (∀ f, step s = .fault f → f.left.Inv) ∧
    (∀ r t, step s = .refused r → r.left = some t → t.Inv)

/-- The state after reset, for every launch the spec allows, has the invariant, and is as the spec says: the raw PC at
the entry point, CPSR 0x000000D3, every other register, memory and the parameters as the launch says, running, the MMU
off and the mode svc; the model's own reset (its launch is the model's choice, logs 1, 3 and 4) is one of them. -/
def Obligations.ResetHasInv : Prop :=
  Launch.standard.ok ∧
  ∀ l : Launch, l.ok → (State.resetWith l).Inv ∧ (State.resetWith l).pc = l.entryPc ∧
    (State.resetWith l).cpsr = 0x000000D3 ∧ (State.resetWith l).regs = l.regs ∧ (State.resetWith l).spsr = l.spsr ∧
    (State.resetWith l).cp15 = ⟨l.mainId, l.cacheType, l.controlReset, l.ttb, l.dacr⟩ ∧
    (State.resetWith l).stop = .running ∧ (State.resetWith l).mem = l.mem ∧ (State.resetWith l).params = l.params ∧
    (State.resetWith l).mmuOn = false ∧ (State.resetWith l).mode = .svc

/-- Who writes what, over all instructions: the mode and the I, F and T bits change only by MSR CPSR outside usr mode, by
an SPSR restore, or by SWI and BKPT; an SPSR only by MSR SPSR, SWI and BKPT; CP15 only by MCR outside usr mode;
memory only by the stores and swaps; the parameters, Main ID, Cache Type and the stop record of a core that goes on by
nothing. -/
def Obligations.OnlyTheseWrite : Prop :=
  ∀ (i : Instr) (s t : State), exec i s = .next t →
    (t.cpsr.extractLsb' 0 8 ≠ s.cpsr.extractLsb' 0 8 →
      (writesCpsr i = true ∧ s.mode ≠ .usr) ∨ restores i = true ∨ entersException i = true) ∧
    (t.spsr ≠ s.spsr → writesSpsr i = true ∨ entersException i = true) ∧
    (t.cp15 ≠ s.cp15 → movesToCp15 i = true ∧ s.mode ≠ .usr) ∧
    (t.mem ≠ s.mem → stores i = true) ∧
    t.params = s.params ∧ t.cp15.mainId = s.cp15.mainId ∧ t.cp15.cacheType = s.cp15.cacheType ∧ t.stop = s.stop

/-- From usr mode only SWI and BKPT reach a privileged mode, and no other step in usr mode changes a privileged
register: the banked cells of the other modes, the SPSRs, CP15, or the control byte of CPSR. -/
def Obligations.UserIsConfined : Prop :=
  ∀ (i : Instr) (s t : State), s.mode = .usr → exec i s = .next t → entersException i = false →
    t.mode = .usr ∧ t.spsr = s.spsr ∧ t.cp15 = s.cp15 ∧ t.cpsr.extractLsb' 0 8 = s.cpsr.extractLsb' 0 8 ∧
    ∀ k, (∀ j : Reg, Mode.usr.cell j ≠ some k) → t.regs.get k = s.regs.get k

/-- A stopped step: the raw PC, the status registers, CP15 and the parameters are those before it, and the stop record
holds the reason and the address of the instruction; the core then stays as it is for good. That the outcome carries the
state is the model's form of R163 and R151 (log 6). -/
def Obligations.StopsLeave : Prop :=
  ∀ s : State, s.stop = .running →
    (∀ f, step s = .fault f → ∃ r, f = r.leaving f.left ∧ StopLeaves s f.left (.fault r s.pc) ∧
      step f.left = .next f.left) ∧
    (∀ q, step s = .refused q → ∃ r t, q = r.leaving t ∧ StopLeaves s t (.refusal r s.pc) ∧ step t = .next t)
end

