-- ==== Sys2Proof/Laws/Memory.lean ====
section
/-! SUPPORT. The laws of the memory store: reading after writing one byte, the canonical form every operation keeps,
and the accesses of 1, 2 and 4 bytes. -/

namespace Sys2Proof.Machine

namespace Memory

/-! ### One byte -/

theorem read_push (m : Memory) (a x : Nat) (b : Byte) (h : b = Config.unlistedByte → m.read a = b) :
    (push a b m).read x = if x = a then b else m.read x := by
  unfold push
  split
  · rename_i hb
    split
    · rename_i hx; rw [hx, h hb]
    · rfl
  · rfl

/-- Below the first listed address nothing is listed. -/
theorem read_below {m : Memory} {a : Nat} (h : ∀ c ∈ m, a < c.1) : m.read a = Config.unlistedByte := by
  induction m with
  | nil => rfl
  | cons c m ih =>
    have hc := h c (by simp)
    simp only [read, if_neg (Nat.ne_of_lt hc)]
    exact ih fun d hd => h d (by simp [hd])

theorem wf_tail {c : Host.Cell} {m : Memory} (h : wf (c :: m)) : wf m :=
  ⟨(List.pairwise_cons.1 h.1).2, fun d hd => h.2 d (by simp [hd])⟩

theorem wf_head {c : Host.Cell} {m : Memory} (h : wf (c :: m)) : ∀ d ∈ m, c.1 < d.1 :=
  (List.pairwise_cons.1 h.1).1

/-- A byte reads what was last written to it, and every other byte as before (20_memory.md R61). -/
theorem read_write {m : Memory} (hm : m.wf) (a x : Nat) (b : Byte) :
    (m.write a b).read x = if x = a then b else m.read x := by
  induction m with
  | nil => exact read_push [] a x b fun h => h.symm
  | cons c m ih =>
    unfold write
    split
    · rename_i hlt
      refine read_push (c :: m) a x b fun h => ?_
      rw [h]
      refine read_below fun d hd => ?_
      rcases List.mem_cons.1 hd with rfl | hd
      · exact hlt
      · exact hlt.trans (wf_head hm d hd)
    · split
      · rename_i hac
        rw [read_push m a x b fun h => by rw [h]; exact read_below fun d hd => hac ▸ wf_head hm d hd]
        split
        · rfl
        · rename_i hx; simp only [read, if_neg (hac ▸ hx)]
      · rename_i hac
        simp only [read, ih (wf_tail hm)]
        split
        · rename_i hx; rw [if_neg (fun e => hac (by rw [← e, hx]))]
        · rfl

/-! ### The canonical form -/

theorem wf_nil : wf [] := ⟨List.Pairwise.nil, by simp⟩

theorem wf_push {m : Memory} (hm : m.wf) {a : Nat} (b : Byte) (ha : a < 2 ^ 32) (h : ∀ c ∈ m, a < c.1) :
    (push a b m).wf := by
  unfold push
  split
  · exact hm
  · rename_i hb
    refine ⟨List.pairwise_cons.2 ⟨h, hm.1⟩, fun c hc => ?_⟩
    rcases List.mem_cons.1 hc with rfl | hc
    · exact ⟨ha, hb⟩
    · exact hm.2 c hc

/-- A write lists no address but its own besides those listed. -/
theorem mem_write {m : Memory} {a : Nat} {b : Byte} {c : Host.Cell} (h : c ∈ m.write a b) :
    c.1 = a ∨ c ∈ m := by
  induction m with
  | nil =>
    simp only [write, push] at h
    split at h <;> simp_all
  | cons d m ih =>
    unfold write at h
    split at h
    · unfold push at h; split at h
      · exact .inr h
      · rcases List.mem_cons.1 h with rfl | h
        · exact .inl rfl
        · exact .inr h
    · split at h
      · unfold push at h; split at h
        · exact .inr (by simp [h])
        · rcases List.mem_cons.1 h with rfl | h
          · exact .inl rfl
          · exact .inr (by simp [h])
      · rcases List.mem_cons.1 h with rfl | h
        · exact .inr (by simp)
        · rcases ih h with h | h
          · exact .inl h
          · exact .inr (by simp [h])

/-- A write keeps the canonical form. -/
theorem wf_write {m : Memory} (hm : m.wf) {a : Nat} (b : Byte) (ha : a < 2 ^ 32) : (m.write a b).wf := by
  induction m with
  | nil => exact wf_push wf_nil b ha (by simp)
  | cons c m ih =>
    unfold write
    split
    · rename_i hlt
      refine wf_push hm b ha fun d hd => ?_
      rcases List.mem_cons.1 hd with rfl | hd
      · exact hlt
      · exact hlt.trans (wf_head hm d hd)
    · rename_i hge
      split
      · rename_i hac
        exact wf_push (wf_tail hm) b ha fun d hd => hac ▸ wf_head hm d hd
      · rename_i hac
        have iht := ih (wf_tail hm)
        refine ⟨List.pairwise_cons.2 ⟨fun d hd => ?_, iht.1⟩, fun d hd => ?_⟩
        · rcases mem_write hd with h | h
          · omega
          · exact wf_head hm d h
        · rcases List.mem_cons.1 hd with rfl | hd
          · exact hm.2 _ (by simp)
          · exact iht.2 d hd

/-- Memories in canonical form that read alike are equal. -/
theorem eq_of_read {m m' : Memory} (hm : m.wf) (hm' : m'.wf) (h : ∀ a, m.read a = m'.read a) : m = m' := by
  induction m generalizing m' with
  | nil =>
    cases m' with
    | nil => rfl
    | cons c m' => exact absurd (by simpa [read] using (h c.1).symm) (hm'.2 c (by simp)).2
  | cons c m ih =>
    cases m' with
    | nil => exact absurd (by simpa [read] using h c.1) (hm.2 c (by simp)).2
    | cons d m' =>
      have hcd : c.1 = d.1 := by
        rcases lt_trichotomy c.1 d.1 with hlt | heq | hlt
        · refine absurd ?_ (hm.2 c (by simp)).2
          have := h c.1
          rw [read_below (m := d :: m') (a := c.1)] at this
          · simpa [read] using this
          · intro e he
            rcases List.mem_cons.1 he with rfl | he
            · exact hlt
            · exact hlt.trans (wf_head hm' e he)
        · exact heq
        · refine absurd ?_ (hm'.2 d (by simp)).2
          have := h d.1
          rw [read_below (m := c :: m) (a := d.1)] at this
          · simpa [read] using this.symm
          · intro e he
            rcases List.mem_cons.1 he with rfl | he
            · exact hlt
            · exact hlt.trans (wf_head hm e he)
      have hv : c.2 = d.2 := by simpa [read, hcd] using h c.1
      have ht : m = m' := by
        refine ih (wf_tail hm) (wf_tail hm') fun a => ?_
        by_cases ha : a = c.1
        · rw [read_below fun e he => ha ▸ wf_head hm e he, read_below fun e he => ha ▸ hcd ▸ wf_head hm' e he]
        · have := h a
          simpa [read, ha, hcd ▸ ha] using this
      rw [ht, Prod.ext hcd hv]

/-! ### Accesses of 1, 2 and 4 bytes -/

theorem wf_setByte {m : Memory} (hm : m.wf) (pa : Word) (b : Byte) : (m.setByte pa b).wf := wf_write hm b pa.isLt

/-- A store keeps the canonical form. -/
theorem wf_store {m : Memory} (hm : m.wf) (pa v : Word) (n : Width) : (m.store pa v n).wf := by
  cases n with
  | byte => exact wf_setByte hm _ _
  | half => exact wf_setByte (wf_setByte hm _ _) _ _
  | word => exact wf_setByte (wf_setByte (wf_setByte (wf_setByte hm _ _) _ _) _ _) _ _

theorem read_setByte {m : Memory} (hm : m.wf) (pa : Word) (b : Byte) (a : Nat) :
    (m.setByte pa b).read a = if a = pa.toNat then b else m.read a := read_write hm _ _ _

/-- The bytes of an access hold the bytes of the stored word, the lowest first (20_memory.md R62). -/
theorem read_store_inside {m : Memory} (hm : m.wf) (pa v : Word) (n : Width) {k : Nat} (hk : k < n.bytes) :
    (m.store pa v n).read (pa + BitVec.ofNat 32 k).toNat = byteOf v k := by
  have hne : ∀ i j : Nat, i < 4 → j < 4 → i ≠ j → (pa + BitVec.ofNat 32 i).toNat ≠ (pa + BitVec.ofNat 32 j).toNat := by
    intro i j hi hj h he
    rw [BitVec.toNat_add, BitVec.toNat_add, BitVec.toNat_ofNat, BitVec.toNat_ofNat] at he
    omega
  have h0 : ∀ i, 0 < i → i < 4 → (pa + BitVec.ofNat 32 i).toNat ≠ pa.toNat := fun i h4 hi => by
    simpa using hne i 0 hi (by omega) (by omega)
  have h1 : ∀ i, i ≠ 1 → i < 4 → (pa + BitVec.ofNat 32 i).toNat ≠ (pa + 1).toNat := fun i h hi => hne i 1 hi (by omega) h
  have h2 : ∀ i, i ≠ 2 → i < 4 → (pa + BitVec.ofNat 32 i).toNat ≠ (pa + 2).toNat := fun i h hi => hne i 2 hi (by omega) h
  have h3 : ∀ i, i ≠ 3 → i < 4 → (pa + BitVec.ofNat 32 i).toNat ≠ (pa + 3).toNat := fun i h hi => hne i 3 hi (by omega) h
  have e0 : pa + BitVec.ofNat 32 0 = pa := by simp
  cases n with
  | byte =>
    obtain rfl : k = 0 := by simp only [Width.bytes] at hk; omega
    simp only [store, read_setByte hm, e0, if_true]
  | half =>
    simp only [store, read_setByte hm, read_setByte (wf_setByte hm _ _)]
    simp only [Width.bytes] at hk
    rcases (by omega : k = 0 ∨ k = 1) with rfl | rfl
    · rw [if_neg (h1 0 (by omega) (by omega)), e0, if_pos rfl]
    · exact if_pos rfl
  | word =>
    simp only [store, read_setByte hm, read_setByte (wf_setByte hm _ _), read_setByte (wf_setByte (wf_setByte hm _ _) _ _),
      read_setByte (wf_setByte (wf_setByte (wf_setByte hm _ _) _ _) _ _)]
    simp only [Width.bytes] at hk
    rcases (by omega : k = 0 ∨ k = 1 ∨ k = 2 ∨ k = 3) with rfl | rfl | rfl | rfl
    · rw [if_neg (h3 0 (by omega) (by omega)), if_neg (h2 0 (by omega) (by omega)), if_neg (h1 0 (by omega) (by omega)), e0,
        if_pos rfl]
    · rw [if_neg (h3 1 (by omega) (by omega)), if_neg (h2 1 (by omega) (by omega))]; exact if_pos rfl
    · rw [if_neg (h3 2 (by omega) (by omega))]; exact if_pos rfl
    · exact if_pos rfl

/-- A byte outside the stored ones reads as before. -/
theorem read_store_outside {m : Memory} (hm : m.wf) (pa v : Word) (n : Width) {a : Nat} (h : ¬InAccess pa n a) :
    (m.store pa v n).read a = m.read a := by
  have hk : ∀ k, k < n.bytes → a ≠ (pa + BitVec.ofNat 32 k).toNat := fun k hk e => h ⟨k, hk, e⟩
  cases n with
  | byte =>
    have h0 := hk 0 (by decide)
    simp only [store, read_setByte hm]
    rw [if_neg (by simpa using h0)]
  | half =>
    have h0 := hk 0 (by decide)
    have h1 : a ≠ (pa + 1).toNat := hk 1 (by decide)
    simp only [store, read_setByte hm, read_setByte (wf_setByte hm _ _)]
    rw [if_neg h1, if_neg (by simpa using h0)]
  | word =>
    have h0 := hk 0 (by decide)
    have h1 : a ≠ (pa + 1).toNat := hk 1 (by decide)
    have h2 : a ≠ (pa + 2).toNat := hk 2 (by decide)
    have h3 : a ≠ (pa + 3).toNat := hk 3 (by decide)
    simp only [store, read_setByte hm, read_setByte (wf_setByte hm _ _), read_setByte (wf_setByte (wf_setByte hm _ _) _ _),
      read_setByte (wf_setByte (wf_setByte (wf_setByte hm _ _) _ _) _ _)]
    rw [if_neg h3, if_neg h2, if_neg h1, if_neg (by simpa using h0)]

/-- A load depends on its own bytes alone. -/
theorem load_congr {m m' : Memory} (pa : Word) (n : Width) (h : ∀ a, InAccess pa n a → m'.read a = m.read a) :
    m'.load pa n = m.load pa n := by
  have hk : ∀ k, k < n.bytes → m'.byteAt (pa + BitVec.ofNat 32 k) = m.byteAt (pa + BitVec.ofNat 32 k) :=
    fun k hk => h _ ⟨k, hk, rfl⟩
  cases n with
  | byte =>
    have h0 : m'.byteAt pa = m.byteAt pa := by simpa using hk 0 (by decide)
    simp only [load, h0]
  | half =>
    have h0 : m'.byteAt pa = m.byteAt pa := by simpa using hk 0 (by decide)
    have h1 : m'.byteAt (pa + 1) = m.byteAt (pa + 1) := hk 1 (by decide)
    simp only [load, h0, h1]
  | word =>
    have h0 : m'.byteAt pa = m.byteAt pa := by simpa using hk 0 (by decide)
    have h1 : m'.byteAt (pa + 1) = m.byteAt (pa + 1) := hk 1 (by decide)
    have h2 : m'.byteAt (pa + 2) = m.byteAt (pa + 2) := hk 2 (by decide)
    have h3 : m'.byteAt (pa + 3) = m.byteAt (pa + 3) := hk 3 (by decide)
    simp only [load, h0, h1, h2, h3]

/-- A load outside the stored bytes reads as before. -/
theorem load_store_outside {m : Memory} (hm : m.wf) (pa v : Word) (n : Width) (pb : Word) (k : Width)
    (h : ∀ a, InAccess pb k a → ¬InAccess pa n a) : (m.store pa v n).load pb k = m.load pb k :=
  load_congr pb k fun a ha => read_store_outside hm pa v n (h a ha)

end Memory

/-- The four bytes of a word in order are the word. -/
theorem bytes_append (v : Word) : byteOf v 3 ++ byteOf v 2 ++ byteOf v 1 ++ byteOf v 0 = v := by
  apply BitVec.eq_of_getLsbD_eq
  intro i hi
  erw [BitVec.getLsbD_append, BitVec.getLsbD_append, BitVec.getLsbD_append]
  interval_cases i <;> simp [byteOf]

namespace Memory

/-- A word load reads the word last stored at the same address. -/
theorem load_store_word {m : Memory} (hm : m.wf) (pa v : Word) : (m.store pa v .word).load pa .word = v := by
  have e : ∀ i j : Word, i ≠ j → (pa + i).toNat ≠ (pa + j).toNat := fun i j hij h => hij (by
    have := BitVec.eq_of_toNat_eq h
    simpa using this)
  have e01 : pa.toNat ≠ (pa + 1).toNat := by simpa using e 0 1 (by decide)
  have e02 : pa.toNat ≠ (pa + 2).toNat := by simpa using e 0 2 (by decide)
  have e03 : pa.toNat ≠ (pa + 3).toNat := by simpa using e 0 3 (by decide)
  simp only [load, store, byteAt, read_setByte hm, read_setByte (wf_setByte hm _ _),
    read_setByte (wf_setByte (wf_setByte hm _ _) _ _),
    read_setByte (wf_setByte (wf_setByte (wf_setByte hm _ _) _ _) _ _), if_true,
    if_neg (e 2 3 (by decide)), if_neg (e 1 3 (by decide)), if_neg (e 1 2 (by decide)), if_neg e01, if_neg e02, if_neg e03]
  exact bytes_append v

end Memory

/-- The memory after reset is in canonical form. -/
theorem reset_mem_wf : State.reset.mem.wf := Memory.wf_nil

end Sys2Proof.Machine
end

