-- ==== Sys2Proof/Laws/State.lean ====
section
/-! SUPPORT. The fields of the state after each update, one lemma a field; the status-register fields; the registers
through the banking table. -/

namespace Sys2Proof.Machine

/-! ### Updates that are one record update -/

section
variable (s : State)

@[simp] theorem State.setPc_regs (v : Word) : (s.setPc v).regs = s.regs := rfl
@[simp] theorem State.setPc_pc (v : Word) : (s.setPc v).pc = v := rfl
@[simp] theorem State.setPc_cpsr (v : Word) : (s.setPc v).cpsr = s.cpsr := rfl
@[simp] theorem State.setPc_spsr (v : Word) : (s.setPc v).spsr = s.spsr := rfl
@[simp] theorem State.setPc_cp15 (v : Word) : (s.setPc v).cp15 = s.cp15 := rfl
@[simp] theorem State.setPc_mem (v : Word) : (s.setPc v).mem = s.mem := rfl
@[simp] theorem State.setPc_stop (v : Word) : (s.setPc v).stop = s.stop := rfl
@[simp] theorem State.setPc_params (v : Word) : (s.setPc v).params = s.params := rfl
@[simp] theorem State.setPc_devLog (v : Word) : (s.setPc v).devLog = s.devLog := rfl
@[simp] theorem State.setPc_draws (v : Word) : (s.setPc v).draws = s.draws := rfl

@[simp] theorem State.setFlags_regs (f : Flags) : (s.setFlags f).regs = s.regs := rfl
@[simp] theorem State.setFlags_pc (f : Flags) : (s.setFlags f).pc = s.pc := rfl
@[simp] theorem State.setFlags_cpsr (f : Flags) : (s.setFlags f).cpsr = withFlags s.cpsr f := rfl
@[simp] theorem State.setFlags_spsr (f : Flags) : (s.setFlags f).spsr = s.spsr := rfl
@[simp] theorem State.setFlags_cp15 (f : Flags) : (s.setFlags f).cp15 = s.cp15 := rfl
@[simp] theorem State.setFlags_mem (f : Flags) : (s.setFlags f).mem = s.mem := rfl
@[simp] theorem State.setFlags_stop (f : Flags) : (s.setFlags f).stop = s.stop := rfl
@[simp] theorem State.setFlags_params (f : Flags) : (s.setFlags f).params = s.params := rfl
@[simp] theorem State.setFlags_devLog (f : Flags) : (s.setFlags f).devLog = s.devLog := rfl
@[simp] theorem State.setFlags_draws (f : Flags) : (s.setFlags f).draws = s.draws := rfl

@[simp] theorem State.advance_regs : (s.advance).regs = s.regs := rfl
@[simp] theorem State.advance_pc : (s.advance).pc = s.pc + 4 := rfl
@[simp] theorem State.advance_cpsr : (s.advance).cpsr = s.cpsr := rfl
@[simp] theorem State.advance_spsr : (s.advance).spsr = s.spsr := rfl
@[simp] theorem State.advance_cp15 : (s.advance).cp15 = s.cp15 := rfl
@[simp] theorem State.advance_mem : (s.advance).mem = s.mem := rfl
@[simp] theorem State.advance_stop : (s.advance).stop = s.stop := rfl
@[simp] theorem State.advance_params : (s.advance).params = s.params := rfl
@[simp] theorem State.advance_devLog : (s.advance).devLog = s.devLog := rfl
@[simp] theorem State.advance_draws : (s.advance).draws = s.draws := rfl

@[simp] theorem State.stopFault_regs (r : FaultRecord) : (s.stopFault r).regs = s.regs := rfl
@[simp] theorem State.stopFault_pc (r : FaultRecord) : (s.stopFault r).pc = s.pc := rfl
@[simp] theorem State.stopFault_cpsr (r : FaultRecord) : (s.stopFault r).cpsr = s.cpsr := rfl
@[simp] theorem State.stopFault_spsr (r : FaultRecord) : (s.stopFault r).spsr = s.spsr := rfl
@[simp] theorem State.stopFault_cp15 (r : FaultRecord) : (s.stopFault r).cp15 = s.cp15 := rfl
@[simp] theorem State.stopFault_mem (r : FaultRecord) : (s.stopFault r).mem = s.mem := rfl
@[simp] theorem State.stopFault_stop (r : FaultRecord) : (s.stopFault r).stop = .fault r s.pc := rfl
@[simp] theorem State.stopFault_params (r : FaultRecord) : (s.stopFault r).params = s.params := rfl
@[simp] theorem State.stopFault_devLog (r : FaultRecord) : (s.stopFault r).devLog = s.devLog := rfl
@[simp] theorem State.stopFault_draws (r : FaultRecord) : (s.stopFault r).draws = s.draws := rfl

@[simp] theorem State.stopRefusal_regs (r : RefusalReason) : (s.stopRefusal r).regs = s.regs := rfl
@[simp] theorem State.stopRefusal_pc (r : RefusalReason) : (s.stopRefusal r).pc = s.pc := rfl
@[simp] theorem State.stopRefusal_cpsr (r : RefusalReason) : (s.stopRefusal r).cpsr = s.cpsr := rfl
@[simp] theorem State.stopRefusal_spsr (r : RefusalReason) : (s.stopRefusal r).spsr = s.spsr := rfl
@[simp] theorem State.stopRefusal_cp15 (r : RefusalReason) : (s.stopRefusal r).cp15 = s.cp15 := rfl
@[simp] theorem State.stopRefusal_mem (r : RefusalReason) : (s.stopRefusal r).mem = s.mem := rfl
@[simp] theorem State.stopRefusal_stop (r : RefusalReason) : (s.stopRefusal r).stop = .refusal r s.pc := rfl
@[simp] theorem State.stopRefusal_params (r : RefusalReason) : (s.stopRefusal r).params = s.params := rfl
@[simp] theorem State.stopRefusal_devLog (r : RefusalReason) : (s.stopRefusal r).devLog = s.devLog := rfl
@[simp] theorem State.stopRefusal_draws (r : RefusalReason) : (s.stopRefusal r).draws = s.draws := rfl

@[simp] theorem State.returnTo_regs (v p : Word) : (s.returnTo v p).regs = s.regs := rfl
@[simp] theorem State.returnTo_pc (v p : Word) : (s.returnTo v p).pc = v := rfl
@[simp] theorem State.returnTo_cpsr (v p : Word) : (s.returnTo v p).cpsr = p := rfl
@[simp] theorem State.returnTo_spsr (v p : Word) : (s.returnTo v p).spsr = s.spsr := rfl
@[simp] theorem State.returnTo_cp15 (v p : Word) : (s.returnTo v p).cp15 = s.cp15 := rfl
@[simp] theorem State.returnTo_mem (v p : Word) : (s.returnTo v p).mem = s.mem := rfl
@[simp] theorem State.returnTo_stop (v p : Word) : (s.returnTo v p).stop = s.stop := rfl
@[simp] theorem State.returnTo_params (v p : Word) : (s.returnTo v p).params = s.params := rfl
@[simp] theorem State.returnTo_devLog (v p : Word) : (s.returnTo v p).devLog = s.devLog := rfl
@[simp] theorem State.returnTo_draws (v p : Word) : (s.returnTo v p).draws = s.draws := rfl

/-! ### The current mode and flags depend on CPSR alone -/

theorem State.mode_congr {s t : State} (h : t.cpsr = s.cpsr) : t.mode = s.mode := by simp [State.mode, h]

theorem State.flags_congr {s t : State} (h : t.cpsr = s.cpsr) : t.flags = s.flags := by simp [State.flags, h]

theorem State.privileged_congr {s t : State} (h : t.cpsr = s.cpsr) : t.privileged = s.privileged := by
  simp [State.privileged, State.mode_congr h]

@[simp] theorem State.setPc_mode (v : Word) : (s.setPc v).mode = s.mode := rfl
@[simp] theorem State.advance_mode : s.advance.mode = s.mode := rfl
@[simp] theorem State.setPc_flags (v : Word) : (s.setPc v).flags = s.flags := rfl
@[simp] theorem State.advance_flags : s.advance.flags = s.flags := rfl

/-! ### Register writes: what they leave, whatever the bank -/

variable (m : Mode) (i : Reg) (v : Word)

@[simp] theorem State.writeAs_cpsr : (s.writeAs m i v).cpsr = s.cpsr := by
  unfold State.writeAs; split <;> rfl

@[simp] theorem State.writeAs_spsr : (s.writeAs m i v).spsr = s.spsr := by
  unfold State.writeAs; split <;> rfl

@[simp] theorem State.writeAs_cp15 : (s.writeAs m i v).cp15 = s.cp15 := by
  unfold State.writeAs; split <;> rfl

@[simp] theorem State.writeAs_mem : (s.writeAs m i v).mem = s.mem := by
  unfold State.writeAs; split <;> rfl

@[simp] theorem State.writeAs_stop : (s.writeAs m i v).stop = s.stop := by
  unfold State.writeAs; split <;> rfl

@[simp] theorem State.writeAs_params : (s.writeAs m i v).params = s.params := by
  unfold State.writeAs; split <;> rfl

@[simp] theorem State.writeAs_devLog : (s.writeAs m i v).devLog = s.devLog := by
  unfold State.writeAs; split <;> rfl

@[simp] theorem State.writeAs_draws : (s.writeAs m i v).draws = s.draws := by
  unfold State.writeAs; split <;> rfl

@[simp] theorem State.writeReg_cpsr : (s.writeReg i v).cpsr = s.cpsr := s.writeAs_cpsr _ i v

@[simp] theorem State.writeReg_spsr : (s.writeReg i v).spsr = s.spsr := s.writeAs_spsr _ i v

@[simp] theorem State.writeReg_cp15 : (s.writeReg i v).cp15 = s.cp15 := s.writeAs_cp15 _ i v

@[simp] theorem State.writeReg_mem : (s.writeReg i v).mem = s.mem := s.writeAs_mem _ i v

@[simp] theorem State.writeReg_stop : (s.writeReg i v).stop = s.stop := s.writeAs_stop _ i v

@[simp] theorem State.writeReg_params : (s.writeReg i v).params = s.params := s.writeAs_params _ i v

@[simp] theorem State.writeReg_devLog : (s.writeReg i v).devLog = s.devLog := s.writeAs_devLog _ i v

@[simp] theorem State.writeReg_draws : (s.writeReg i v).draws = s.draws := s.writeAs_draws _ i v

@[simp] theorem State.writeUser_cpsr : (s.writeUser i v).cpsr = s.cpsr := s.writeAs_cpsr _ i v

@[simp] theorem State.writeUser_spsr : (s.writeUser i v).spsr = s.spsr := s.writeAs_spsr _ i v

@[simp] theorem State.writeUser_cp15 : (s.writeUser i v).cp15 = s.cp15 := s.writeAs_cp15 _ i v

@[simp] theorem State.writeUser_mem : (s.writeUser i v).mem = s.mem := s.writeAs_mem _ i v

@[simp] theorem State.writeUser_stop : (s.writeUser i v).stop = s.stop := s.writeAs_stop _ i v

@[simp] theorem State.writeUser_params : (s.writeUser i v).params = s.params := s.writeAs_params _ i v

@[simp] theorem State.writeUser_devLog : (s.writeUser i v).devLog = s.devLog := s.writeAs_devLog _ i v

@[simp] theorem State.writeUser_draws : (s.writeUser i v).draws = s.draws := s.writeAs_draws _ i v

@[simp] theorem State.finishWith_cpsr : (s.finishWith i v).cpsr = s.cpsr := by
  unfold State.finishWith; split <;> simp

@[simp] theorem State.finishWith_spsr : (s.finishWith i v).spsr = s.spsr := by
  unfold State.finishWith; split <;> simp

@[simp] theorem State.finishWith_cp15 : (s.finishWith i v).cp15 = s.cp15 := by
  unfold State.finishWith; split <;> simp

@[simp] theorem State.finishWith_mem : (s.finishWith i v).mem = s.mem := by
  unfold State.finishWith; split <;> simp

@[simp] theorem State.finishWith_stop : (s.finishWith i v).stop = s.stop := by
  unfold State.finishWith; split <;> simp

@[simp] theorem State.finishWith_params : (s.finishWith i v).params = s.params := by
  unfold State.finishWith; split <;> simp

@[simp] theorem State.finishWith_devLog : (s.finishWith i v).devLog = s.devLog := by
  unfold State.finishWith; split <;> simp

@[simp] theorem State.finishWith_draws : (s.finishWith i v).draws = s.draws := by
  unfold State.finishWith; split <;> simp

@[simp] theorem State.writeReg_mode : (s.writeReg i v).mode = s.mode := State.mode_congr (by simp)

@[simp] theorem State.writeReg_flags : (s.writeReg i v).flags = s.flags := State.flags_congr (by simp)

@[simp] theorem State.writeReg_privileged : (s.writeReg i v).privileged = s.privileged :=
  State.privileged_congr (by simp)

@[simp] theorem State.writeSpsr_regs : (s.writeSpsr v).regs = s.regs := by
  unfold State.writeSpsr; split <;> rfl

@[simp] theorem State.writeSpsr_pc : (s.writeSpsr v).pc = s.pc := by
  unfold State.writeSpsr; split <;> rfl

@[simp] theorem State.writeSpsr_cpsr : (s.writeSpsr v).cpsr = s.cpsr := by
  unfold State.writeSpsr; split <;> rfl

@[simp] theorem State.writeSpsr_cp15 : (s.writeSpsr v).cp15 = s.cp15 := by
  unfold State.writeSpsr; split <;> rfl

@[simp] theorem State.writeSpsr_mem : (s.writeSpsr v).mem = s.mem := by
  unfold State.writeSpsr; split <;> rfl

@[simp] theorem State.writeSpsr_stop : (s.writeSpsr v).stop = s.stop := by
  unfold State.writeSpsr; split <;> rfl

@[simp] theorem State.writeSpsr_params : (s.writeSpsr v).params = s.params := by
  unfold State.writeSpsr; split <;> rfl

@[simp] theorem State.writeSpsr_devLog : (s.writeSpsr v).devLog = s.devLog := by
  unfold State.writeSpsr; split <;> rfl

@[simp] theorem State.writeSpsr_draws : (s.writeSpsr v).draws = s.draws := by
  unfold State.writeSpsr; split <;> rfl

end

/-! ### Cells -/

/-- A cell reads what was last written to it, and every other cell as before. -/
theorem Regs.get_set (r : Regs) (c d : Cell) (v : Word) : (r.set c v).get d = if d = c then v else r.get d := by
  cases c <;> cases d <;> rfl

@[simp] theorem Regs.get_set_same (r : Regs) (c : Cell) (v : Word) : (r.set c v).get c = v := by simp [Regs.get_set]

theorem Regs.get_set_ne (r : Regs) {c d : Cell} (h : d ≠ c) (v : Word) : (r.set c v).get d = r.get d := by
  simp [Regs.get_set, h]

/-- Only r15 has no cell. -/
theorem Mode.cell_eq_none (m : Mode) (i : Reg) : m.cell i = none ↔ i = 15 := by
  fin_cases i <;> simp [Mode.cell]

theorem Mode.cell_isSome (m : Mode) {i : Reg} (h : i ≠ 15) : ∃ c, m.cell i = some c := by
  cases hc : m.cell i with
  | none => exact absurd ((m.cell_eq_none i).1 hc) h
  | some c => exact ⟨c, rfl⟩

/-- The register number a cell stands for, whatever its bank. -/
def Cell.number : Cell → Reg
  | .r0 => 0 | .r1 => 1 | .r2 => 2 | .r3 => 3 | .r4 => 4 | .r5 => 5 | .r6 => 6 | .r7 => 7
  | .r8_usr | .r8_fiq => 8 | .r9_usr | .r9_fiq => 9 | .r10_usr | .r10_fiq => 10
  | .r11_usr | .r11_fiq => 11 | .r12_usr | .r12_fiq => 12
  | .r13_usr | .r13_fiq | .r13_irq | .r13_svc | .r13_abt | .r13_und => 13
  | .r14_usr | .r14_fiq | .r14_irq | .r14_svc | .r14_abt | .r14_und => 14

theorem Mode.cell_number (m : Mode) (i : Reg) : ∀ c ∈ m.cell i, c.number = i := by
  cases m <;> revert i <;> decide

/-- Within one mode two register numbers never share a cell. -/
theorem Mode.cell_injective (m : Mode) {i j : Reg} {c : Cell} (hi : m.cell i = some c) (hj : m.cell j = some c) :
    i = j := by
  rw [← m.cell_number i c hi, m.cell_number j c hj]

/-! ### Registers through the bank -/

/-- r15 reads as the raw PC plus 8 (10_state.md R25). -/
@[simp] theorem State.readReg_pc (s : State) : s.readReg 15 = s.pc + 8 := rfl

@[simp] theorem State.writeReg_pc15 (s : State) (v : Word) : s.writeReg 15 v = s.setPc v := rfl

theorem State.writeAs_of_cell (s : State) {m : Mode} {i : Reg} {c : Cell} (h : m.cell i = some c) (v : Word) :
    s.writeAs m i v = { s with regs := s.regs.set c v } := by simp [State.writeAs, h]

theorem State.readAs_of_cell (s : State) {m : Mode} {i : Reg} {c : Cell} (h : m.cell i = some c) :
    s.readAs m i = s.regs.get c := by simp [State.readAs, h]

@[simp] theorem State.writeAs_pc (s : State) (m : Mode) {i : Reg} (h : i ≠ 15) (v : Word) :
    (s.writeAs m i v).pc = s.pc := by
  obtain ⟨c, hc⟩ := m.cell_isSome h; simp [State.writeAs, hc]

@[simp] theorem State.writeReg_pc (s : State) {i : Reg} (h : i ≠ 15) (v : Word) : (s.writeReg i v).pc = s.pc :=
  s.writeAs_pc _ h v

/-- A register other than r15 reads what was written to it. -/
theorem State.readAs_writeAs_same (s : State) (m : Mode) {i : Reg} (h : i ≠ 15) (v : Word) :
    (s.writeAs m i v).readAs m i = v := by
  obtain ⟨c, hc⟩ := m.cell_isSome h; simp [State.readAs, State.writeAs, hc]

/-- A write of one register leaves every other register of the bank. -/
theorem State.readAs_writeAs_ne (s : State) (m : Mode) {i j : Reg} (hi : i ≠ 15) (h : j ≠ i) (v : Word) :
    (s.writeAs m i v).readAs m j = s.readAs m j := by
  obtain ⟨c, hc⟩ := m.cell_isSome hi
  rw [s.writeAs_of_cell hc]
  cases hj : m.cell j with
  | none => simp [State.readAs, hj]
  | some d =>
    have hd : d ≠ c := fun e => h (m.cell_injective hj (e ▸ hc))
    simp [State.readAs, hj, Regs.get_set_ne _ hd]

theorem State.readReg_writeReg_same (s : State) {i : Reg} (h : i ≠ 15) (v : Word) : (s.writeReg i v).readReg i = v := by
  unfold State.readReg; rw [State.writeReg_mode]; exact s.readAs_writeAs_same _ h v

theorem State.readReg_writeReg_ne (s : State) {i j : Reg} (hi : i ≠ 15) (h : j ≠ i) (v : Word) :
    (s.writeReg i v).readReg j = s.readReg j := by
  unfold State.readReg; rw [State.writeReg_mode]; exact s.readAs_writeAs_ne _ hi h v

/-- A register read depends on the cells, the mode and the raw PC alone. -/
theorem State.readReg_congr {s t : State} (hr : t.regs = s.regs) (hc : t.cpsr = s.cpsr) (hp : t.pc = s.pc) (i : Reg) :
    t.readReg i = s.readReg i := by
  simp [State.readReg, State.readAs, State.mode_congr hc, hr, hp]

/-- A register write changes no cell but its own. -/
theorem State.writeAs_cells (s : State) (m : Mode) (i : Reg) (v : Word) {c : Cell} (h : c ∉ (m.cell i).toList) :
    (s.writeAs m i v).regs.get c = s.regs.get c := by
  cases hc : m.cell i with
  | none => simp [State.writeAs, hc]
  | some d =>
    have : c ≠ d := fun e => h (by simp [hc, e])
    simp [State.writeAs, hc, Regs.get_set_ne _ this]

/-! ### The status register -/

/-- Every bit of a status value with new flags: bits 27:0 as they were, then V, C, Z and N. -/
theorem withFlags_getLsbD (p : Word) (f : Flags) (k : Nat) :
    (withFlags p f).getLsbD k =
      if k < 28 then p.getLsbD k
      else if k = 28 then f.v else if k = 29 then f.c else if k = 30 then f.z else if k = 31 then f.n else false := by
  unfold withFlags
  erw [BitVec.getLsbD_append, BitVec.getLsbD_append, BitVec.getLsbD_append, BitVec.getLsbD_append]
  by_cases h : k < 28
  · simp [h]
  · obtain ⟨j, rfl⟩ : ∃ j, k = 28 + j := ⟨k - 28, by omega⟩
    match j with
    | 0 | 1 | 2 | 3 => simp
    | j + 4 => simp [show 28 + (j + 4) ≠ 29 by omega, show 28 + (j + 4) ≠ 30 by omega, show 28 + (j + 4) ≠ 31 by omega]

@[simp] theorem flagsOf_withFlags (p : Word) (f : Flags) : flagsOf (withFlags p f) = f := by
  simp only [flagsOf, withFlags_getLsbD]
  rfl

/-- Writing the flags leaves bits 27:0. -/
theorem withFlags_low (p : Word) (f : Flags) {k : Nat} (h : k < 28) : (withFlags p f).getLsbD k = p.getLsbD k := by
  simp only [withFlags_getLsbD, h, if_true]

@[simp] theorem modeField_withFlags (p : Word) (f : Flags) : modeField (withFlags p f) = modeField p := by
  apply BitVec.eq_of_getLsbD_eq
  intro k hk
  simp [modeField, hk, withFlags_low p f (show k < 28 by omega)]

@[simp] theorem State.setFlags_mode (s : State) (f : Flags) : (s.setFlags f).mode = s.mode := by
  simp [State.mode, State.setFlags]

@[simp] theorem State.setFlags_flags (s : State) (f : Flags) : (s.setFlags f).flags = f := by
  simp [State.flags, State.setFlags]

@[simp] theorem Mode.ofBits_bits (m : Mode) : Mode.ofBits m.bits = some m := by cases m <;> rfl

/-- The status on entry to a mode names that mode. -/
@[simp] theorem modeField_entryStatus (m : Mode) (p : Word) : modeField (entryStatus m p) = m.bits := by
  apply BitVec.eq_of_getLsbD_eq
  intro k hk
  have : k = 0 ∨ k = 1 ∨ k = 2 ∨ k = 3 ∨ k = 4 := by omega
  rcases this with rfl | rfl | rfl | rfl | rfl <;> cases m <;> simp [modeField, entryStatus, Mode.bits]

/-! ### Saved status registers -/

@[simp] theorem Spsrs.get_set_same (p : Spsrs) (c : SpsrCell) (v : Word) : (p.set c v).get c = v := by cases c <;> rfl

theorem Spsrs.get_set_ne (p : Spsrs) {c d : SpsrCell} (h : d ≠ c) (v : Word) : (p.set c v).get d = p.get d := by
  cases c <;> cases d <;> first | rfl | exact absurd rfl h

end Sys2Proof.Machine
end

