-- ==== Sys2Proof/Laws/Ops.lean ====
section
/-! SUPPORT. The laws of the outcomes and of the shared operations: what it takes to answer a next state, what a stop
leaves, and a rule for stating something of every outcome of an instruction at once (`Ends`). -/

namespace Sys2Proof.Machine

section
variable {α β : Type}

/-! ### Outcomes -/

@[simp] theorem andThen_next (a : α) (k : α → Host.Outcome β Fault Refusal) : andThen (.next a) k = k a := rfl
@[simp] theorem andThen_fault (f : Fault) (k : α → Host.Outcome β Fault Refusal) : andThen (.fault f) k = .fault f := rfl
@[simp] theorem andThen_refused (r : Refusal) (k : α → Host.Outcome β Fault Refusal) :
    andThen (.refused r) k = .refused r := rfl

/-- What goes on to a next state went on at every stage. -/
theorem andThen_eq_next {x : Host.Outcome α Fault Refusal} {k : α → Host.Outcome β Fault Refusal} {b : β} :
    andThen x k = .next b ↔ ∃ a, x = .next a ∧ k a = .next b := by
  cases x <;> simp [andThen]

@[simp] theorem raise_ne_next (r : FaultRecord) (s : State) (a : α) : raise r s ≠ .next a := by simp [raise]
@[simp] theorem refuse_ne_next (r : RefusalReason) (s : State) (a : α) : refuse r s ≠ .next a := by simp [refuse]

/-- A fault names its record, whatever state it leaves. -/
theorem FaultRecord.leaving_inj {r r' : FaultRecord} {a b : State} (h : r.leaving a = r'.leaving b) : r = r' := by
  cases r <;> cases r' <;> simp_all [FaultRecord.leaving]

theorem RefusalReason.leaving_inj {q q' : RefusalReason} {a b : State} (h : q.leaving a = q'.leaving b) : q = q' := by
  cases q <;> cases q' <;> simp_all [RefusalReason.leaving]

@[simp] theorem FaultRecord.left_leaving (r : FaultRecord) (s : State) : (r.leaving s).left = s := by cases r <;> rfl

@[simp] theorem RefusalReason.left_leaving (r : RefusalReason) (s : State) : (r.leaving s).left = some s := by
  cases r <;> rfl

/-! ### Something of every outcome -/

/-- The outcome ends in a next state with P, or stops with a reason that leaves a state with Q, its stop record set. -/
def Ends (P : α → Prop) (Q : State → Prop) : Host.Outcome α Fault Refusal → Prop
  | .next a => P a
  | .fault f => ∃ r s, f = FaultRecord.leaving r (s.stopFault r) ∧ Q s
  | .refused q => ∃ r s, q = RefusalReason.leaving r (s.stopRefusal r) ∧ Q s

theorem Ends.mono {P P' : α → Prop} {Q Q' : State → Prop} {x : Host.Outcome α Fault Refusal} (h : Ends P Q x)
    (hP : ∀ a, P a → P' a) (hQ : ∀ s, Q s → Q' s) : Ends P' Q' x := by
  cases x with
  | next a => exact hP a h
  | fault f => obtain ⟨r, s, e, h⟩ := h; exact ⟨r, s, e, hQ s h⟩
  | refused q => obtain ⟨r, s, e, h⟩ := h; exact ⟨r, s, e, hQ s h⟩

theorem ends_next {P : α → Prop} {Q : State → Prop} {a : α} (h : P a) : Ends P Q (.next a) := h

theorem ends_raise {P : α → Prop} {Q : State → Prop} {s : State} (r : FaultRecord) (h : Q s) : Ends P Q (raise r s) :=
  ⟨r, s, rfl, h⟩

theorem ends_refuse {P : α → Prop} {Q : State → Prop} {s : State} (r : RefusalReason) (h : Q s) :
    Ends P Q (refuse r s) := ⟨r, s, rfl, h⟩

theorem ends_andThen {P : α → Prop} {P' : β → Prop} {Q : State → Prop} {x : Host.Outcome α Fault Refusal}
    {k : α → Host.Outcome β Fault Refusal} (h : Ends P Q x) (hk : ∀ a, P a → Ends P' Q (k a)) :
    Ends P' Q (andThen x k) := by
  cases x with
  | next a => exact hk a h
  | fault f => exact h
  | refused q => exact h

end

/-! ### Conditions -/

theorem whenPassed_pass {c : Cond} {s : State} (h : Cond.passes c s.flags = true) (k : State → Out) :
    whenPassed c s k = k s := by simp [whenPassed, h]

theorem whenPassed_fail {c : Cond} {s : State} (h : Cond.passes c s.flags = false) (k : State → Out) :
    whenPassed c s k = .next s.advance := by simp [whenPassed, h]

theorem ends_whenPassed {P : State → Prop} {Q : State → Prop} {c : Cond} {s : State} {k : State → Out}
    (hs : P s.advance) (hk : Ends P Q (k s)) : Ends P Q (whenPassed c s k) := by
  unfold whenPassed; split
  · exact hk
  · exact hs

/-! ### SPSR restores -/

theorem readSpsr_eq (s : State) : s.readSpsr = s.mode.spsrCell.map s.spsr.get := rfl

theorem withRestorable_ok {s : State} {p : Word} (h : s.readSpsr = some p) (hp : statusValid p = true)
    (k : Word → Out) : withRestorable s k = k p := by simp [withRestorable, h, hp]

theorem ends_withRestorable {P : State → Prop} {Q : State → Prop} {s : State} {k : Word → Out} (hs : Q s)
    (hk : ∀ p, s.readSpsr = some p → statusValid p = true → Ends P Q (k p)) : Ends P Q (withRestorable s k) := by
  unfold withRestorable; split
  · exact ends_raise _ hs
  · split
    · exact hk _ ‹_› ‹_›
    · exact ends_refuse _ hs

/-- A valid status value: T = 0 and the M field of one of the seven modes (R21, R31). -/
theorem statusValid_iff (p : Word) :
    statusValid p = true ↔ p.getLsbD 5 = false ∧ ∃ m : Mode, p.extractLsb' 0 5 = m.bits := by
  have h : ∀ b : BitVec 5, (Mode.ofBits b).isSome = true ↔ ∃ m : Mode, b = m.bits := by
    intro b
    constructor
    · revert b
      have : ∀ b : BitVec 5, (Mode.ofBits b).isSome = true →
          b = Mode.usr.bits ∨ b = Mode.fiq.bits ∨ b = Mode.irq.bits ∨ b = Mode.svc.bits ∨ b = Mode.abt.bits ∨
            b = Mode.und.bits ∨ b = Mode.sys.bits := by decide
      intro b hb
      rcases this b hb with h | h | h | h | h | h | h <;> exact ⟨_, h⟩
    · rintro ⟨m, rfl⟩; simp
  simp only [statusValid, Bool.and_eq_true, Bool.not_eq_true', tBit, modeField, h]

/-! ### Finishing an instruction -/

theorem finishWith_pc15 (s : State) (v : Word) : s.finishWith 15 v = s.setPc v := rfl

theorem finishWith_of_ne (s : State) {i : Reg} (h : i ≠ 15) (v : Word) : s.finishWith i v = (s.writeReg i v).advance := by
  simp [State.finishWith, h]

/-! ### Taking an exception -/

theorem entryStatus_getLsbD (m : Mode) (p : Word) (k : Nat) :
    (entryStatus m p).getLsbD k =
      if k < 5 then m.bits.getLsbD k else if k = 5 then false else if k = 7 then true else p.getLsbD k := by
  have hbits : ∀ j, 5 ≤ j → m.bits.getLsbD j = false := fun j hj => BitVec.getLsbD_of_ge _ _ hj
  by_cases hk : k < 32
  · have h1 : (0x000000BF#32).getLsbD k = (decide (k < 5) || k == 5 || k == 7) := by interval_cases k <;> rfl
    have h2 : (0x00000080#32).getLsbD k = (k == 7) := by interval_cases k <;> rfl
    have h5 : (decide (k < 5) = true) ∨ k = 5 ∨ k = 6 ∨ k = 7 ∨ 8 ≤ k := by simp; omega
    simp only [entryStatus, BitVec.getLsbD_or, BitVec.getLsbD_and, BitVec.getLsbD_not, BitVec.getLsbD_setWidth, h1, h2, hk]
    rcases h5 with h | rfl | rfl | rfl | h
    · have : k < 5 := by simpa using h
      have : k ≠ 5 := by omega
      have : k ≠ 7 := by omega
      simp [*]
    · simp
    · simp
    · simp
    · have : ¬k < 5 := by omega
      have : k ≠ 5 := by omega
      have : k ≠ 7 := by omega
      simp [*, hbits k (by omega), show (k == 5) = false by simpa, show (k == 7) = false by simpa]
  · have : ¬k < 5 := by omega
    have : k ≠ 5 := by omega
    have : k ≠ 7 := by omega
    simp [*, BitVec.getLsbD_of_ge _ _ (show 32 ≤ k by omega)]

end Sys2Proof.Machine
end

