-- ==== Sys2Proof/Laws/Access.lean ====
section
/-! SUPPORT. The laws of memory accesses: alignment as arithmetic, what translation depends on and keeps, and for each
access what it answers from ordinary memory and what any outcome of it leaves. -/

namespace Sys2Proof.Machine

/-! ### Alignment -/

theorem misaligned_word (a : Word) : misaligned a .word = true ↔ a.toNat % 4 ≠ 0 := by
  simp only [misaligned, bne_iff_ne, ne_eq, ← BitVec.toNat_inj, BitVec.extractLsb'_toNat, Nat.shiftRight_zero]
  simp

theorem misaligned_half (a : Word) : misaligned a .half = true ↔ a.toNat % 2 ≠ 0 := by
  simp only [misaligned, bne_iff_ne, ne_eq, ← BitVec.toNat_inj, BitVec.extractLsb'_toNat, Nat.shiftRight_zero]
  simp

/-- An address is misaligned when it is no multiple of the width (20_memory.md R63). -/
theorem misaligned_iff (a : Word) (n : Width) : misaligned a n = true ↔ a.toNat % n.bytes ≠ 0 := by
  cases n with
  | byte => simp [misaligned, Width.bytes, Nat.mod_one]
  | half => exact misaligned_half a
  | word => exact misaligned_word a

theorem aligned_iff (a : Word) (n : Width) : misaligned a n = false ↔ a.toNat % n.bytes = 0 := by
  rw [← Bool.not_eq_true, misaligned_iff]; simp

/-! ### Appended fields -/

theorem toNat_append_word {n k : Nat} (x : BitVec n) (y : BitVec k) : (x ++ y).toNat = x.toNat * 2 ^ k + y.toNat := by
  rw [BitVec.toNat_append, ← Nat.shiftLeft_add_eq_or_of_lt y.isLt, Nat.shiftLeft_eq]

/-- A section's address keeps the low 20 bits of va and takes the rest from the descriptor (R84). -/
theorem sectionAddr_toNat (l va : Word) : (sectionAddr l va).toNat = l.toNat / 2 ^ 20 * 2 ^ 20 + va.toNat % 2 ^ 20 := by
  have h : (sectionAddr l va).toNat = _ := toNat_append_word (l.extractLsb' 20 12) (va.extractLsb' 0 20)
  have := l.isLt
  rw [h, BitVec.extractLsb'_toNat, BitVec.extractLsb'_toNat, Nat.shiftRight_eq_div_pow, Nat.shiftRight_zero]
  omega

theorem largeAddr_toNat (l va : Word) : (largeAddr l va).toNat = l.toNat / 2 ^ 16 * 2 ^ 16 + va.toNat % 2 ^ 16 := by
  have h : (largeAddr l va).toNat = _ := toNat_append_word (l.extractLsb' 16 16) (va.extractLsb' 0 16)
  have := l.isLt
  rw [h, BitVec.extractLsb'_toNat, BitVec.extractLsb'_toNat, Nat.shiftRight_eq_div_pow, Nat.shiftRight_zero]
  omega

theorem smallAddr_toNat (l va : Word) : (smallAddr l va).toNat = l.toNat / 2 ^ 12 * 2 ^ 12 + va.toNat % 2 ^ 12 := by
  have h : (smallAddr l va).toNat = _ := toNat_append_word (l.extractLsb' 12 20) (va.extractLsb' 0 12)
  have := l.isLt
  rw [h, BitVec.extractLsb'_toNat, BitVec.extractLsb'_toNat, Nat.shiftRight_eq_div_pow, Nat.shiftRight_zero]
  omega

theorem tinyAddr_toNat (l va : Word) : (tinyAddr l va).toNat = l.toNat / 2 ^ 10 * 2 ^ 10 + va.toNat % 2 ^ 10 := by
  have h : (tinyAddr l va).toNat = _ := toNat_append_word (l.extractLsb' 10 22) (va.extractLsb' 0 10)
  have := l.isLt
  rw [h, BitVec.extractLsb'_toNat, BitVec.extractLsb'_toNat, Nat.shiftRight_eq_div_pow, Nat.shiftRight_zero]
  omega

/-! ### Translation -/

/-- A check that passes answers the address it was given: the domain is a manager, or a client whose permission
allows the access (R90, R93). -/
theorem checkAccess_eq_next {d : BitVec 4} {ap : BitVec 2} {level : Level} {va pa : Word} {acc : Access} {priv : Bool}
    {s : State} {r : Word} :
    checkAccess d ap level va acc priv pa s = .next r ↔
      r = pa ∧ (dacField s.cp15.dacr d = 0b11 ∨
        (dacField s.cp15.dacr d = 0b01 ∧
          ∃ p, apTable ap s.sysProt s.romProt priv = some p ∧ p.allows acc = true)) := by
  unfold checkAccess
  by_cases h3 : dacField s.cp15.dacr d = 0b11
  · rw [if_pos h3]
    exact ⟨fun h => ⟨(Host.Outcome.next.inj h).symm, .inl h3⟩, fun h => by rw [h.1]⟩
  · rw [if_neg h3]
    by_cases h1 : dacField s.cp15.dacr d = 0b01
    · rw [if_pos h1]
      cases hp : apTable ap s.sysProt s.romProt priv with
      | none =>
        exact ⟨fun h => absurd h (refuse_ne_next _ _ _),
          fun ⟨_, h⟩ => h.elim (fun h => absurd h h3) fun ⟨_, p, hq, _⟩ => by cases hq⟩
      | some p =>
        simp only
        by_cases ha : p.allows acc = true
        · rw [if_pos ha]
          exact ⟨fun h => ⟨(Host.Outcome.next.inj h).symm, .inr ⟨h1, p, rfl, ha⟩⟩, fun h => by rw [h.1]⟩
        · rw [if_neg ha]
          exact ⟨fun h => absurd h (raise_ne_next _ _ _),
            fun ⟨_, h⟩ => h.elim (fun h => absurd h h3) fun ⟨_, q, hq, hb⟩ => by cases hq; exact absurd hb ha⟩
    · rw [if_neg h1]
      exact ⟨fun h => absurd h (raise_ne_next _ _ _),
        fun ⟨_, h⟩ => h.elim (fun h => absurd h h3) fun ⟨h, _⟩ => absurd h h1⟩

theorem ends_checkAccess (d : BitVec 4) (ap : BitVec 2) (level : Level) (va : Word) (acc : Access) (priv : Bool) (pa : Word)
    (s : State) : Ends (fun r => r = pa) (fun t => t = s) (checkAccess d ap level va acc priv pa s) := by
  unfold checkAccess
  split
  · rfl
  · split
    · split
      · exact ends_refuse _ rfl
      · split
        · rfl
        · exact ends_raise _ rfl
    · exact ends_raise _ rfl

/-- Translation answers an address with the low ten bits of va, or stops leaving the state. -/
theorem ends_translate (va : Word) (acc : Access) (priv : Bool) (s : State) :
    Ends (fun pa => pa.toNat % 2 ^ 10 = va.toNat % 2 ^ 10) (fun t => t = s) (translate va acc priv s) := by
  have hpage : ∀ d l2, Ends (fun pa => pa.toNat % 2 ^ 10 = va.toNat % 2 ^ 10) (fun t => t = s)
      (walkPage d l2 va acc priv s) := by
    intro d l2
    unfold walkPage
    split
    · refine (ends_checkAccess ..).mono (fun pa h => ?_) fun t h => h
      rw [h, largeAddr_toNat]; omega
    · split
      · refine (ends_checkAccess ..).mono (fun pa h => ?_) fun t h => h
        rw [h, smallAddr_toNat]; omega
      · split
        · refine (ends_checkAccess ..).mono (fun pa h => ?_) fun t h => h
          rw [h, tinyAddr_toNat]; omega
        · exact ends_raise _ rfl
  unfold translate
  split
  · unfold walk
    simp only
    split
    · refine (ends_checkAccess ..).mono (fun pa h => ?_) fun t h => h
      rw [h, sectionAddr_toNat]; omega
    · split
      · exact hpage _ _
      · split
        · exact hpage _ _
        · exact ends_raise _ rfl
  · rfl

theorem translate_low {va pa : Word} {acc : Access} {priv : Bool} {s : State} (h : translate va acc priv s = .next pa) :
    pa.toNat % 2 ^ 10 = va.toNat % 2 ^ 10 := by
  have := ends_translate va acc priv s
  rw [h] at this
  exact this

/-- A translated address is aligned as the virtual one. -/
theorem translate_aligned {va pa : Word} {acc : Access} {priv : Bool} {s : State} (n : Width)
    (h : translate va acc priv s = .next pa) (ha : misaligned va n = false) : misaligned pa n = false := by
  have := translate_low h
  rw [aligned_iff] at ha ⊢
  cases n <;> simp only [Width.bytes] at * <;> omega

/-- Two outcomes with one answer, or with one cause of a stop, each in its own state. -/
def SameCause (s t : State) (x y : Host.Outcome Word Fault Refusal) : Prop :=
  (∃ pa, x = .next pa ∧ y = .next pa) ∨ (∃ r, x = raise r s ∧ y = raise r t) ∨ ∃ q, x = refuse q s ∧ y = refuse q t

theorem SameCause.next {s t : State} {x y : Host.Outcome Word Fault Refusal} {pa : Word} (h : SameCause s t x y)
    (hx : x = .next pa) : y = .next pa := by
  rcases h with ⟨q, h1, h2⟩ | ⟨r, h1, _⟩ | ⟨q, h1, _⟩
  · rw [h2, ← h1, hx]
  · exact absurd (h1.symm.trans hx) (raise_ne_next _ _ _)
  · exact absurd (h1.symm.trans hx) (refuse_ne_next _ _ _)

theorem SameCause.raise {s t : State} {x y : Host.Outcome Word Fault Refusal} {r : FaultRecord} (h : SameCause s t x y)
    (hx : x = Machine.raise r s) : y = Machine.raise r t := by
  rcases h with ⟨q, h1, _⟩ | ⟨r', h1, h2⟩ | ⟨q, h1, _⟩
  · exact absurd (hx.symm.trans h1) (raise_ne_next _ _ _)
  · rw [h2, FaultRecord.leaving_inj (Host.Outcome.fault.inj (hx.symm.trans h1))]
  · exact nomatch hx.symm.trans h1

theorem SameCause.refuse {s t : State} {x y : Host.Outcome Word Fault Refusal} {q : RefusalReason} (h : SameCause s t x y)
    (hx : x = Machine.refuse q s) : y = Machine.refuse q t := by
  rcases h with ⟨p, h1, _⟩ | ⟨r, h1, _⟩ | ⟨q', h1, h2⟩
  · exact absurd (hx.symm.trans h1) (refuse_ne_next _ _ _)
  · exact nomatch hx.symm.trans h1
  · rw [h2, RefusalReason.leaving_inj (Host.Outcome.refused.inj (hx.symm.trans h1))]

/-- Translation depends on CP15 and the descriptors alone: where the words that its walk may read agree, so does what
it answers or why it stops. -/
theorem translate_agree_of_descriptors {s t : State} (hc : t.cp15 = s.cp15) (va : Word) (acc : Access) (priv : Bool)
    (h1 : t.mem.load (firstAddr s.cp15.ttb va) .word = s.mem.load (firstAddr s.cp15.ttb va) .word)
    (h2 : ∀ a ∈ [coarseAddr (s.mem.load (firstAddr s.cp15.ttb va) .word) va,
        fineAddr (s.mem.load (firstAddr s.cp15.ttb va) .word) va], t.mem.load a .word = s.mem.load a .word) :
    SameCause s t (translate va acc priv s) (translate va acc priv t) := by
  have hraise : ∀ r, SameCause s t (raise r s) (raise r t) := fun r => .inr (.inl ⟨r, rfl, rfl⟩)
  have hrefuse : ∀ q, SameCause s t (refuse q s) (refuse q t) := fun q => .inr (.inr ⟨q, rfl, rfl⟩)
  have hnext : ∀ pa, SameCause s t (.next pa) (.next pa) := fun pa => .inl ⟨pa, rfl, rfl⟩
  have hcheck : ∀ d ap level pb,
      SameCause s t (checkAccess d ap level va acc priv pb s) (checkAccess d ap level va acc priv pb t) := by
    intro d ap level pb
    simp only [checkAccess, State.sysProt, State.romProt, hc]
    split
    · exact hnext _
    · split
      · split
        · exact hrefuse _
        · split
          · exact hnext _
          · exact hraise _
      · exact hraise _
  have hpage : ∀ d l2, SameCause s t (walkPage d l2 va acc priv s) (walkPage d l2 va acc priv t) := by
    intro d l2
    unfold walkPage
    split
    · exact hcheck ..
    · split
      · exact hcheck ..
      · split
        · exact hcheck ..
        · exact hraise _
  have hwalk : SameCause s t (walk va acc priv s) (walk va acc priv t) := by
    simp only [walk, hc, h1]
    simp only [List.mem_cons, List.not_mem_nil, or_false, forall_eq_or_imp, forall_eq] at h2
    rw [h2.1, h2.2]
    generalize s.mem.load (firstAddr s.cp15.ttb va) .word = l1
    by_cases h2 : typeOf l1 = 0b10
    · rw [if_pos h2, if_pos h2]; exact hcheck ..
    · by_cases h1 : typeOf l1 = 0b01
      · rw [if_neg h2, if_neg h2, if_pos h1, if_pos h1]; exact hpage ..
      · by_cases h3 : typeOf l1 = 0b11
        · rw [if_neg h2, if_neg h2, if_neg h1, if_neg h1, if_pos h3, if_pos h3]; exact hpage ..
        · rw [if_neg h2, if_neg h2, if_neg h1, if_neg h1, if_neg h3, if_neg h3]; exact hraise _
  have hmmu : t.mmuOn = s.mmuOn := by simp [State.mmuOn, hc]
  unfold translate
  rw [hmmu]
  by_cases hon : s.mmuOn = true
  · rw [if_pos hon, if_pos hon]; exact hwalk
  · rw [if_neg hon, if_neg hon]; exact hnext _

theorem translate_agree {s t : State} (hm : t.mem = s.mem) (hc : t.cp15 = s.cp15) (va : Word) (acc : Access)
    (priv : Bool) : SameCause s t (translate va acc priv s) (translate va acc priv t) :=
  translate_agree_of_descriptors hc va acc priv (by rw [hm]) fun _ _ => by rw [hm]

theorem translate_congr {s t : State} (hm : t.mem = s.mem) (hc : t.cp15 = s.cp15) {va pa : Word} {acc : Access}
    {priv : Bool} (h : translate va acc priv s = .next pa) : translate va acc priv t = .next pa :=
  (translate_agree hm hc va acc priv).next h

/-! ### Physical accesses -/

theorem deviceAt_congr {s t : State} (h : t.params = s.params) (pa : Word) : t.deviceAt pa = s.deviceAt pa := by
  simp [State.deviceAt, h]

/-- Two states that differ in the record of the devices at most. -/
def SameButDevices (s t : State) : Prop := t = { s with draws := t.draws, devLog := t.devLog }

theorem SameButDevices.refl (s : State) : SameButDevices s s := rfl

theorem ends_withDeviceWord {α : Type} {P : α → Prop} {Q : State → Prop} {pa : Word} {n : Width} {acc : Access} {s : State}
    {k : Host.Outcome α Fault Refusal} (hs : Q s) (hk : Ends P Q k) : Ends P Q (withDeviceWord pa n acc s k) := by
  unfold withDeviceWord
  split
  · split
    · exact ends_raise _ hs
    · exact hk
  · exact ends_refuse _ hs

/-- A physical read changes nothing but the record of the devices, and a stop of it nothing at all. -/
theorem ends_physRead (pa : Word) (n : Width) (acc : Access) (s : State) :
    Ends (fun r => SameButDevices s r.2) (fun t => t = s) (physRead pa n acc s) := by
  unfold physRead
  split
  · exact ends_withDeviceWord rfl rfl
  · split
    · exact ends_raise _ rfl
    · rfl

/-- Two states that differ in memory and the record of the devices at most, memory staying in canonical form. -/
def SameButMemory (s t : State) : Prop :=
  t = { s with mem := t.mem, draws := t.draws, devLog := t.devLog } ∧ (s.mem.wf → t.mem.wf)

theorem SameButMemory.refl (s : State) : SameButMemory s s := ⟨rfl, id⟩

theorem SameButDevices.memory {s t : State} (h : SameButDevices s t) : SameButMemory s t := by
  rw [h]; exact ⟨rfl, id⟩

/-- A physical write changes nothing but memory and the record of the devices, and a stop of it nothing at all. -/
theorem ends_physWrite (pa : Word) (n : Width) (v : Word) (s : State) :
    Ends (SameButMemory s) (fun t => t = s) (physWrite pa n v s) := by
  unfold physWrite
  split
  · exact ends_withDeviceWord rfl ⟨rfl, id⟩
  · split
    · exact ends_raise _ rfl
    · exact ⟨rfl, fun h => Memory.wf_store h ..⟩

theorem physRead_memory {pa : Word} {s : State} (h : s.deviceAt pa = none) {n : Width} (ha : misaligned pa n = false)
    (acc : Access) : physRead pa n acc s = .next (s.mem.load pa n, s) := by simp [physRead, h, ha]

theorem physWrite_memory {pa : Word} {s : State} (h : s.deviceAt pa = none) {n : Width} (ha : misaligned pa n = false)
    (v : Word) : physWrite pa n v s = .next { s with mem := s.mem.store pa v n } := by simp [physWrite, h, ha]

theorem physRead_device {pa : Word} {s : State} {k : Nat} {d : Device} (h : s.deviceAt pa = some (k, d))
    (ha : misaligned pa .word = false) (acc : Access) :
    physRead pa .word acc s = .next (Config.deviceRead s.draws k (pa - d.first),
      { s with draws := s.draws + 1, devLog := s.devLog ++ [.read k (pa - d.first)] }) := by
  simp [physRead, h, withDeviceWord, ha]

theorem physWrite_device {pa : Word} {s : State} {k : Nat} {d : Device} (h : s.deviceAt pa = some (k, d))
    (ha : misaligned pa .word = false) (v : Word) :
    physWrite pa .word v s = .next { s with devLog := s.devLog ++ [.write k (pa - d.first) v] } := by
  simp [physWrite, h, withDeviceWord, ha]

/-! ### Virtual accesses -/

theorem memRead_eq {va pa : Word} {n : Width} {acc : Access} {priv : Bool} {s : State} (ha : misaligned va n = false)
    (ht : translate va acc priv s = .next pa) : memRead va n acc priv s = physRead pa n acc s := by
  simp [memRead, ha, ht]

theorem memWrite_eq {va pa : Word} {n : Width} {priv : Bool} {s : State} (ha : misaligned va n = false)
    (ht : translate va .write priv s = .next pa) (v : Word) : memWrite va n v priv s = physWrite pa n v s := by
  simp [memWrite, ha, ht]

/-- An access that reaches ordinary memory reads it and changes nothing. -/
theorem memRead_memory {va pa : Word} {n : Width} {acc : Access} {priv : Bool} {s : State} (ha : misaligned va n = false)
    (ht : translate va acc priv s = .next pa) (hd : s.deviceAt pa = none) :
    memRead va n acc priv s = .next (s.mem.load pa n, s) := by
  rw [memRead_eq ha ht, physRead_memory hd (translate_aligned n ht ha)]

/-- An access that reaches ordinary memory writes it and nothing else. -/
theorem memWrite_memory {va pa : Word} {n : Width} {priv : Bool} {s : State} (ha : misaligned va n = false)
    (ht : translate va .write priv s = .next pa) (hd : s.deviceAt pa = none) (v : Word) :
    memWrite va n v priv s = .next { s with mem := s.mem.store pa v n } := by
  rw [memWrite_eq ha ht, physWrite_memory hd (translate_aligned n ht ha)]

theorem ends_memRead (va : Word) (n : Width) (acc : Access) (priv : Bool) (s : State) :
    Ends (fun r => SameButDevices s r.2) (fun t => t = s) (memRead va n acc priv s) := by
  unfold memRead
  split
  · exact ends_raise _ rfl
  · exact ends_andThen (ends_translate ..) fun pa _ => ends_physRead ..

theorem ends_memWrite (va : Word) (n : Width) (v : Word) (priv : Bool) (s : State) :
    Ends (SameButMemory s) (fun t => t = s) (memWrite va n v priv s) := by
  unfold memWrite
  split
  · exact ends_raise _ rfl
  · exact ends_andThen (ends_translate ..) fun pa _ => ends_physWrite ..

theorem ends_loadWord (va : Word) (priv : Bool) (s : State) :
    Ends (fun r => SameButDevices s r.2) (fun t => t = s) (loadWord va priv s) := by
  unfold loadWord
  split
  · exact ends_andThen (ends_memRead ..) fun r h => h
  · exact ends_memRead ..

theorem ends_fetch (s : State) : Ends (fun r => SameButDevices s r.2) (fun t => t = s) (fetch s) := ends_memRead ..

end Sys2Proof.Machine
end

