-- ==== Sys2Proof/Laws/Decode.lean ====
section
/-! SUPPORT. The laws of the fields of a word and of the opcode table: what a field at its place holds, that fields at
different places do not touch, and what it takes for a word to decode to an instruction. -/

namespace Sys2Proof

/-! ### Fields of a type -/

@[simp] theorem Cond.ofBits_bits (c : Cond) : Cond.ofBits c.bits = some c := by cases c <;> rfl

theorem Cond.bits_ne_reserved (c : Cond) : c.bits ≠ 0b1111#4 := by cases c <;> decide

/-- Every condition field but the reserved one is a condition's. -/
theorem Cond.exists_bits {b : BitVec 4} (h : b ≠ 0b1111#4) : ∃ c : Cond, c.bits = b := by
  have key : ∀ b : BitVec 4, b ≠ 0b1111#4 → ((Cond.ofBits b).getD .al).bits = b := by decide
  exact ⟨_, key b h⟩

@[simp] theorem Shift.ofBits_bits (t : Shift) : Shift.ofBits t.bits = t := by cases t <;> rfl

@[simp] theorem Shift.bits_ofBits (b : BitVec 2) : (Shift.ofBits b).bits = b := by revert b; decide

@[simp] theorem Reg.toFin_bits (r : Reg) : (Reg.bits r).toFin = r := rfl

/-! ### A field at its place -/

theorem fieldAt_getLsbD {n : Nat} (lo : Nat) (v : BitVec n) (k : Nat) :
    (fieldAt lo v).getLsbD k = (decide (k < 32) && decide (lo ≤ k) && v.getLsbD (k - lo)) := by
  simp only [fieldAt, BitVec.getLsbD_shiftLeft, BitVec.getLsbD_setWidth]
  by_cases h : k < 32
  · by_cases h2 : lo ≤ k
    · simp [h, h2, show ¬k < lo by omega, show k - lo < 32 by omega]
    · simp [h2, show k < lo by omega]
  · simp [h]

/-- Reading a field back. -/
theorem extract_fieldAt {n : Nat} {lo : Nat} (h : lo + n ≤ 32) (v : BitVec n) : (fieldAt lo v).extractLsb' lo n = v := by
  apply BitVec.eq_of_getLsbD_eq
  intro k hk
  rw [BitVec.getLsbD_extractLsb', fieldAt_getLsbD]
  simp [hk, show lo + k < 32 by omega]

/-- A field is zero outside its place. -/
theorem extract_fieldAt_ne {n : Nat} {lo : Nat} (v : BitVec n) {at' m : Nat} (h : lo + n ≤ at' ∨ at' + m ≤ lo) :
    (fieldAt lo v).extractLsb' at' m = 0#m := by
  apply BitVec.eq_of_getLsbD_eq
  intro k hk
  rw [BitVec.getLsbD_extractLsb', fieldAt_getLsbD, BitVec.getLsbD_zero]
  rcases h with h | h
  · simp [BitVec.getLsbD_of_ge v (at' + k - lo) (by omega)]
  · simp [show ¬lo ≤ at' + k by omega]

/-- A field meets no bit of a mask that is zero at its place. -/
theorem fieldAt_and {n : Nat} {lo : Nat} (v : BitVec n) {m : Word} (h : ∀ k, lo ≤ k → k < lo + n → m.getLsbD k = false) :
    fieldAt lo v &&& m = 0#32 := by
  apply BitVec.eq_of_getLsbD_eq
  intro k hk
  rw [BitVec.getLsbD_and, fieldAt_getLsbD, BitVec.getLsbD_zero]
  by_cases h1 : lo ≤ k
  · by_cases h2 : k < lo + n
    · simp [h k h1 h2]
    · simp [BitVec.getLsbD_of_ge v (k - lo) (by omega)]
  · simp [h1]

/-! ### The condition field -/

theorem condField_or (a b : Word) : condField (a ||| b) = condField a ||| condField b := by
  apply BitVec.eq_of_getLsbD_eq
  intro k hk
  simp only [condField, BitVec.getLsbD_extractLsb', BitVec.getLsbD_or, Bool.and_or_distrib_left]

@[simp] theorem condField_condBits (c : Cond) : condField (condBits c) = c.bits := extract_fieldAt (by omega) _

/-- A field below bit 28 leaves the condition field. -/
theorem condField_fieldAt {n : Nat} {lo : Nat} (v : BitVec n) (h : lo + n ≤ 28) : condField (fieldAt lo v) = 0#4 :=
  extract_fieldAt_ne v (.inl h)

theorem condField_bitAt {lo : Nat} (b : Bool) (h : lo < 28) : condField (bitAt lo b) = 0#4 :=
  condField_fieldAt _ (by omega)

theorem condField_regField {lo : Nat} (r : Reg) (h : lo ≤ 24) : condField (regField lo r) = 0#4 :=
  condField_fieldAt _ (by omega)

theorem condField_immOp (o : ImmOp) : condField o.word = 0#4 := by
  rw [ImmOp.word, condField_or, condField_fieldAt _ (by omega), condField_fieldAt _ (by omega)]; rfl

theorem condField_rsiOp (o : RsiOp) : condField o.word = 0#4 := by
  rw [RsiOp.word, condField_or, condField_or, condField_fieldAt _ (by omega), condField_fieldAt _ (by omega),
    condField_regField _ (by omega)]; rfl

theorem condField_rsrOp (o : RsrOp) : condField o.word = 0#4 := by
  rw [RsrOp.word, condField_or, condField_or, condField_regField _ (by omega), condField_fieldAt _ (by omega),
    condField_regField _ (by omega)]; rfl

theorem condField_puw (p u w : Bool) : condField (puwWord p u w) = 0#4 := by
  rw [puwWord, condField_or, condField_or, condField_bitAt _ (by omega), condField_bitAt _ (by omega),
    condField_bitAt _ (by omega)]; rfl

/-! ### The decoder -/

/-- What a word that decodes to an instruction is: no reserved condition, and the first row it matches has its should-be
bits and reads the instruction. -/
theorem decode_instr {w : Word} {i : Instr} (h : decode w = .instr i) :
    condField w ≠ 0b1111#4 ∧
      ∃ r ∈ opcodeTable, r.matches w = true ∧ r.shouldBeOk w = true ∧ i = r.operands w := by
  unfold decode at h
  split at h
  · cases h
  · rename_i hc
    split at h
    · cases h
    · rename_i r hr
      split at h
      · rename_i hs
        cases h
        exact ⟨by simpa using hc, r, List.mem_of_find?_eq_some hr, by simpa using List.find?_some hr, hs, rfl⟩
      · cases h

/-- A word of a row, its should-be bits right, decodes to what the row reads, when no earlier row takes it. -/
theorem decode_of_find {w : Word} {r : Row} (hc : condField w ≠ 0b1111#4)
    (hf : opcodeTable.find? (fun r => r.matches w) = some r) (hs : r.shouldBeOk w = true) :
    decode w = .instr (r.operands w) := by
  simp [decode, hc, hf, hs]

/-- Matching a row is having its identifying bits. -/
theorem Row.matches_iff (r : Row) (w : Word) : r.matches w = true ↔ w &&& r.mask = r.value := by simp [Row.matches]

theorem Row.shouldBeOk_iff (r : Row) (w : Word) : r.shouldBeOk w = true ↔ w &&& r.sbMask = r.sbValue := by
  simp [Row.shouldBeOk]

end Sys2Proof
end

