-- ==== Sys2Proof/Laws/Instructions.lean ====
section
/-! SUPPORT. For each operation that instructions share, one law that says what any outcome of it leaves: a next state
that an unprivileged program may reach (`Ordinary`), or a state restored from an SPSR (`Returned`), or a stop that has
changed no control state (`Halfway`). -/

namespace Sys2Proof.Machine

/-! ### What an outcome leaves -/

/-- The next state of an instruction that needs no privilege: CPSR bits 27:0 and the control state are as they were,
memory stays in its form, and no register outside the current bank changes. -/
structure Ordinary (s t : State) : Prop where
  status : t.cpsr.extractLsb' 0 28 = s.cpsr.extractLsb' 0 28
  spsr : t.spsr = s.spsr
  cp15 : t.cp15 = s.cp15
  stop : t.stop = s.stop
  params : t.params = s.params
  wf : s.mem.wf → t.mem.wf
  regs : ∀ k, (∀ j : Reg, s.mode.cell j ≠ some k) → t.regs.get k = s.regs.get k

/-- `Ordinary`, and memory is as it was. -/
abbrev OrdinaryRegs (s t : State) : Prop := Ordinary s t ∧ t.mem = s.mem

/-- The state a stop leaves, but for its stop record: the raw PC, the status registers, CP15 and the parameters are as
they were (40_dispatch.md R163), and memory stays in its form. -/
structure Halfway (s t : State) : Prop where
  pc : t.pc = s.pc
  cpsr : t.cpsr = s.cpsr
  spsr : t.spsr = s.spsr
  cp15 : t.cp15 = s.cp15
  stop : t.stop = s.stop
  params : t.params = s.params
  wf : s.mem.wf → t.mem.wf

/-- The state after a return from an exception: CPSR is the SPSR of the old mode, a valid status (41_data_processing.md
R183, 46_block_transfer.md R295). -/
structure Returned (s t : State) : Prop where
  status : ∃ p, s.readSpsr = some p ∧ statusValid p = true ∧ t.cpsr = p
  spsr : t.spsr = s.spsr
  cp15 : t.cp15 = s.cp15
  stop : t.stop = s.stop
  params : t.params = s.params
  mem : t.mem = s.mem

theorem mode_of_status {s t : State} (h : t.cpsr.extractLsb' 0 28 = s.cpsr.extractLsb' 0 28) : t.mode = s.mode := by
  have hf : modeField t.cpsr = modeField s.cpsr := by
    apply BitVec.eq_of_getLsbD_eq
    intro k hk
    have := congrArg (fun v : BitVec 28 => v.getLsbD k) h
    simpa [modeField, BitVec.getLsbD_extractLsb', hk, show k < 28 by omega] using this
  simp [State.mode, hf]

theorem Ordinary.mode {s t : State} (h : Ordinary s t) : t.mode = s.mode := mode_of_status h.status

theorem Ordinary.refl (s : State) : Ordinary s s := ⟨rfl, rfl, rfl, rfl, rfl, id, fun _ _ => rfl⟩

theorem Ordinary.trans {s t u : State} (h : Ordinary s t) (k : Ordinary t u) : Ordinary s u where
  status := k.status.trans h.status
  spsr := k.spsr.trans h.spsr
  cp15 := k.cp15.trans h.cp15
  stop := k.stop.trans h.stop
  params := k.params.trans h.params
  wf := k.wf ∘ h.wf
  regs c hc := (k.regs c (by rw [h.mode]; exact hc)).trans (h.regs c hc)

theorem OrdinaryRegs.trans {s t u : State} (h : OrdinaryRegs s t) (k : OrdinaryRegs t u) : OrdinaryRegs s u :=
  ⟨h.1.trans k.1, k.2.trans h.2⟩

theorem Halfway.refl (s : State) : Halfway s s := ⟨rfl, rfl, rfl, rfl, rfl, rfl, id⟩

theorem Halfway.trans {s t u : State} (h : Halfway s t) (k : Halfway t u) : Halfway s u :=
  ⟨k.pc.trans h.pc, k.cpsr.trans h.cpsr, k.spsr.trans h.spsr, k.cp15.trans h.cp15, k.stop.trans h.stop,
    k.params.trans h.params, k.wf ∘ h.wf⟩

/-! ### Updates -/

theorem ordinary_setPc (s : State) (v : Word) : OrdinaryRegs s (s.setPc v) :=
  ⟨⟨rfl, rfl, rfl, rfl, rfl, id, fun _ _ => rfl⟩, rfl⟩

theorem ordinary_advance (s : State) : OrdinaryRegs s s.advance := ordinary_setPc s _

theorem ordinary_setFlags (s : State) (f : Flags) : OrdinaryRegs s (s.setFlags f) := by
  refine ⟨⟨?_, rfl, rfl, rfl, rfl, id, fun _ _ => rfl⟩, rfl⟩
  apply BitVec.eq_of_getLsbD_eq
  intro k hk
  rw [BitVec.getLsbD_extractLsb', BitVec.getLsbD_extractLsb', State.setFlags_cpsr, withFlags_low _ _ (by omega)]

theorem ordinary_writeReg (s : State) (i : Reg) (v : Word) : OrdinaryRegs s (s.writeReg i v) := by
  refine ⟨⟨by simp, by simp, by simp, by simp, by simp, by simp, fun c hc => ?_⟩, by simp⟩
  exact s.writeAs_cells _ _ _ fun h => hc i (by simpa using h)

theorem ordinary_finishWith (s : State) (i : Reg) (v : Word) : OrdinaryRegs s (s.finishWith i v) := by
  unfold State.finishWith
  split
  · exact ordinary_setPc s v
  · exact (ordinary_writeReg s i v).trans (ordinary_advance _)

theorem SameButDevices.ordinary {s t : State} (h : SameButDevices s t) : OrdinaryRegs s t := by
  rw [h]; exact ⟨⟨rfl, rfl, rfl, rfl, rfl, id, fun _ _ => rfl⟩, rfl⟩

theorem SameButDevices.halfway {s t : State} (h : SameButDevices s t) : Halfway s t := by
  rw [h]; exact ⟨rfl, rfl, rfl, rfl, rfl, rfl, id⟩

theorem SameButMemory.ordinary {s t : State} (h : SameButMemory s t) : Ordinary s t := by
  obtain ⟨h, hw⟩ := h
  rw [h]; exact ⟨rfl, rfl, rfl, rfl, rfl, hw, fun _ _ => rfl⟩

theorem SameButMemory.halfway {s t : State} (h : SameButMemory s t) : Halfway s t := by
  obtain ⟨h, hw⟩ := h
  rw [h]; exact ⟨rfl, rfl, rfl, rfl, rfl, rfl, hw⟩

/-! ### Data processing, multiplies and branches -/

/-- The end of a data-processing instruction: an ordinary state, or, for S = 1 and Rd = 15, a return. -/
theorem ends_dpFinish (f : Bool) (rd : Reg) (r : AluResult) (s : State) :
    Ends (fun t => OrdinaryRegs s t ∨ (f = true ∧ rd = 15 ∧ Returned s t)) (· = s) (dpFinish f rd r s) := by
  unfold dpFinish
  split
  · split
    · refine ends_withRestorable rfl fun p hp hv => ends_next (.inr ⟨‹_›, ‹_›, ⟨p, hp, hv, rfl⟩, rfl, rfl, rfl, rfl, rfl⟩)
    · exact ends_next (.inl (ordinary_setPc s _))
  · refine ends_next (.inl ?_)
    refine OrdinaryRegs.trans ?_ (ordinary_advance _)
    split
    · exact (ordinary_writeReg s rd r.value).trans (ordinary_setFlags _ _)
    · exact ordinary_writeReg s rd r.value

theorem ends_cmpFinish (r : AluResult) (s : State) : Ends (OrdinaryRegs s) (· = s) (cmpFinish r s) :=
  ends_next ((ordinary_setFlags s _).trans (ordinary_advance _))

theorem ends_mulFinish (f : Bool) (rd : Reg) (p : Word) (s : State) : Ends (OrdinaryRegs s) (· = s) (mulFinish f rd p s) := by
  refine ends_next (OrdinaryRegs.trans ?_ (ordinary_advance _))
  split
  · exact (ordinary_writeReg s rd p).trans (ordinary_setFlags _ _)
  · exact ordinary_writeReg s rd p

theorem ends_mull (f : Bool) (rdHi rdLo rs rm : Reg) (p : BitVec 64) (s : State) :
    Ends (OrdinaryRegs s) (· = s) (mull f rdHi rdLo rs rm p s) := by
  unfold mull
  split
  · exact ends_refuse _ rfl
  · refine ends_next (OrdinaryRegs.trans ?_ (ordinary_advance _))
    split
    · exact ((ordinary_writeReg s rdLo _).trans (ordinary_writeReg _ rdHi _)).trans (ordinary_setFlags _ _)
    · exact (ordinary_writeReg s rdLo _).trans (ordinary_writeReg _ rdHi _)

theorem ends_branchExchange (t : Word) {link : State → State} (s : State) (h : OrdinaryRegs s (link s)) :
    Ends (OrdinaryRegs s) (· = s) (branchExchange t link s) := by
  unfold branchExchange
  split
  · exact ends_refuse _ rfl
  · exact ends_next (h.trans (ordinary_setPc _ _))

theorem ends_mrsFinish (rd : Reg) (v : Word) (s : State) : Ends (OrdinaryRegs s) (· = s) (mrsFinish rd v s) := by
  unfold mrsFinish
  split
  · exact ends_refuse _ rfl
  · exact ends_next ((ordinary_writeReg s rd v).trans (ordinary_advance _))

/-! ### Single transfers -/

theorem writeBack_ordinary (rn : Reg) (t : Transfer) (s : State) : OrdinaryRegs s (writeBack rn t s) := by
  unfold writeBack
  split
  · exact ordinary_writeReg s rn _
  · exact ⟨Ordinary.refl s, rfl⟩

theorem writeBack_halfway {rn : Reg} {t : Transfer} (h : t.backToPc rn = false) (s : State) :
    Halfway s (writeBack rn t s) := by
  unfold writeBack
  split
  · rename_i hb
    have hn : rn ≠ 15 := by simpa [Transfer.backToPc, hb] using h
    exact ⟨by simp [hn], by simp, by simp, by simp, by simp, by simp, by simp⟩
  · exact Halfway.refl s

theorem ends_ldrWord (priv : Bool) (rn rd : Reg) (t : Transfer) (s : State) :
    Ends (OrdinaryRegs s) (Halfway s) (ldrWord priv rn rd t s) := by
  unfold ldrWord
  split
  · exact ends_refuse _ (Halfway.refl s)
  · rename_i h
    have hh := writeBack_halfway (by simpa using h) s
    exact ends_andThen ((ends_loadWord ..).mono (fun _ h => h) fun u hu => by rw [hu]; exact hh) fun r hr =>
      ends_next (((writeBack_ordinary rn t s).trans hr.ordinary).trans (ordinary_finishWith ..))

theorem ends_strWord (priv : Bool) (rn rd : Reg) (t : Transfer) (s : State) :
    Ends (Ordinary s) (Halfway s) (strWord priv rn rd t s) := by
  unfold strWord
  split
  · exact ends_refuse _ (Halfway.refl s)
  · rename_i h
    simp only [Bool.or_eq_true, not_or, Bool.not_eq_true] at h
    have hh := writeBack_halfway h.1 s
    exact ends_andThen ((ends_memWrite ..).mono (fun _ h => h) fun u hu => by rw [hu]; exact hh) fun r hr =>
      ends_next (((writeBack_ordinary rn t s).1.trans hr.ordinary).trans (ordinary_advance _).1)

theorem ends_ldrNarrow (n : Width) (ext : Word → Word) (priv : Bool) (rn rd : Reg) (t : Transfer) (s : State) :
    Ends (OrdinaryRegs s) (Halfway s) (ldrNarrow n ext priv rn rd t s) := by
  unfold ldrNarrow
  split
  · exact ends_refuse _ (Halfway.refl s)
  · rename_i h
    simp only [Bool.or_eq_true, not_or, Bool.not_eq_true] at h
    have hh := writeBack_halfway h.1 s
    exact ends_andThen ((ends_memRead ..).mono (fun _ h => h) fun u hu => by rw [hu]; exact hh) fun r hr =>
      ends_next ((((writeBack_ordinary rn t s).trans hr.ordinary).trans (ordinary_writeReg ..)).trans (ordinary_advance _))

theorem ends_strNarrow (n : Width) (priv : Bool) (rn rd : Reg) (t : Transfer) (s : State) :
    Ends (Ordinary s) (Halfway s) (strNarrow n priv rn rd t s) := by
  unfold strNarrow
  split
  · exact ends_refuse _ (Halfway.refl s)
  · rename_i h
    simp only [Bool.or_eq_true, not_or, Bool.not_eq_true] at h
    have hh := writeBack_halfway h.1.1 s
    exact ends_andThen ((ends_memWrite ..).mono (fun _ h => h) fun u hu => by rw [hu]; exact hh) fun r hr =>
      ends_next (((writeBack_ordinary rn t s).1.trans hr.ordinary).trans (ordinary_advance _).1)

theorem ends_swap (n : Width) (rn rd rm : Reg) (s : State) : Ends (Ordinary s) (Halfway s) (swap n rn rd rm s) := by
  unfold swap
  split
  · exact ends_refuse _ (Halfway.refl s)
  · refine ends_andThen ((ends_memRead ..).mono (fun _ h => h) fun u hu => by rw [hu]; exact Halfway.refl s) fun r hr => ?_
    refine ends_andThen ((ends_memWrite ..).mono (fun _ h => h) fun u hu => by rw [hu]; exact hr.halfway) fun q hq => ?_
    exact ends_next (((hr.ordinary.1.trans hq.ordinary).trans (ordinary_writeReg ..).1).trans (ordinary_advance _).1)

/-- A guard that refuses before an operation. -/
theorem ends_unlessPcOffset {P Q : State → Prop} {rm : Reg} {s : State} {k : Out} (hs : Q s) (hk : Ends P Q k) :
    Ends P Q (unlessPcOffset rm s k) := by
  unfold unlessPcOffset; split
  · exact ends_refuse _ hs
  · exact hk

theorem ends_unlessPcLoad {P Q : State → Prop} {rd : Reg} {s : State} {k : Out} (hs : Q s) (hk : Ends P Q k) :
    Ends P Q (unlessPcLoad rd s k) := by
  unfold unlessPcLoad; split
  · exact ends_refuse _ hs
  · exact hk

theorem ends_unlessHalfRefused {P Q : State → Prop} {p w : Bool} {rd : Reg} {s : State} {k : Out} (hs : Q s)
    (hk : Ends P Q k) : Ends P Q (unlessHalfRefused p w rd s k) := by
  unfold unlessHalfRefused; split
  · exact ends_refuse _ hs
  · exact hk

/-! ### Block transfers -/

/-- The loads of a block whose registers are put away one by one: every prefix of them satisfies `P`, and a stop leaves
such a prefix. `P` may not depend on the record of the devices. -/
theorem ends_loadBlock {put : Reg → Word → State → State} {P : List Reg → State → Prop} :
    ∀ (is : List Reg) (a : Word) (s : State), P is s → (∀ js t u, P js t → SameButDevices t u → P js u) →
      (∀ j js v t, P (j :: js) t → P js (put j v t)) →
      Ends (P []) (fun t => ∃ j js, P (j :: js) t) (loadBlock put is a s)
  | [], _, _, h, _, _ => ends_next h
  | i :: is, a, s, h, hd, hp =>
    ends_andThen ((ends_memRead ..).mono (fun _ h => h) fun u hu => by rw [hu]; exact ⟨i, is, h⟩) fun r hr =>
      ends_loadBlock is (a + 4) (put i r.1 r.2) (hp i is r.1 r.2 (hd _ _ _ h hr)) hd hp

theorem ends_storeBlock : ∀ (vs : List Word) (a : Word) (s : State), Ends (SameButMemory s) (SameButMemory s) (storeBlock vs a s)
  | [], _, s => ends_next (SameButMemory.refl s)
  | v :: vs, a, s => by
    have trans : ∀ {t u : State}, SameButMemory s t → SameButMemory t u → SameButMemory s u := by
      rintro t u ⟨h, hw⟩ ⟨k, kw⟩
      exact ⟨by rw [k]; rw [h], kw ∘ hw⟩
    refine ends_andThen ((ends_memWrite ..).mono (fun _ h => h) fun u hu => by rw [hu]; exact SameButMemory.refl s) fun t ht => ?_
    exact (ends_storeBlock vs (a + 4) t).mono (fun u hu => trans ht hu) fun u hu => trans ht hu

theorem ordinary_putLoaded (i : Reg) (v : Word) (s : State) : OrdinaryRegs s (putLoaded i v s) := by
  unfold putLoaded
  split
  · exact ordinary_setPc s _
  · exact ordinary_writeReg s i v

theorem ordinary_blockWriteBack (w : Bool) (rn : Reg) (v : Word) (s : State) : OrdinaryRegs s (blockWriteBack w rn v s) := by
  unfold blockWriteBack
  split
  · exact ordinary_writeReg s rn v
  · exact ⟨Ordinary.refl s, rfl⟩

/-- In a list of registers every one before the last is not r15. -/
theorem listRegs_pc_last (list : BitVec 16) : (listRegs list).Pairwise fun i _ => i ≠ 15 := by
  have : allRegs.Pairwise fun i _ => i ≠ 15 := by decide
  exact this.filter _

/-- The loads of LDM(1) and LDM(3): until the last of them the raw PC is as it was. -/
theorem ends_loads (list : BitVec 16) (a : Word) (s : State) :
    Ends (OrdinaryRegs s) (Halfway s) (loadBlock putLoaded (listRegs list) a s) := by
  have h := ends_loadBlock (put := putLoaded)
    (P := fun js t => (js.Pairwise fun i _ => i ≠ 15) ∧ OrdinaryRegs s t ∧ t.cpsr = s.cpsr ∧ (js ≠ [] → t.pc = s.pc))
    (listRegs list) a s ⟨listRegs_pc_last list, ⟨Ordinary.refl s, rfl⟩, rfl, fun _ => rfl⟩
    (fun _ _ _ ht hu => ⟨ht.1, ht.2.1.trans hu.ordinary, by rw [hu]; exact ht.2.2.1, fun h => by rw [hu]; exact ht.2.2.2 h⟩)
    (fun j _ v t ht => by
      obtain ⟨hp, ho, hc, hpc⟩ := ht
      obtain ⟨hj, hp⟩ := List.pairwise_cons.1 hp
      refine ⟨hp, ho.trans (ordinary_putLoaded j v t), ?_, fun hne => ?_⟩
      · unfold putLoaded; split <;> simpa using hc
      · obtain ⟨i, is, rfl⟩ := List.exists_cons_of_ne_nil hne
        have hj := hj i (by simp)
        simp [putLoaded, hj, hpc])
  refine h.mono (fun t ht => ht.2.1) fun t ht => ?_
  obtain ⟨j, js, _, ho, hc, hpc⟩ := ht
  exact ⟨hpc (by simp), hc, ho.1.spsr, ho.1.cp15, ho.1.stop, ho.1.params, ho.1.wf⟩

theorem ends_loadMultiple (p u w : Bool) (rn : Reg) (list : BitVec 16) (s : State) :
    Ends (OrdinaryRegs s) (Halfway s) (loadMultiple p u w rn list s) :=
  ends_andThen (ends_loads ..) fun _ ht => ends_next (OrdinaryRegs.trans ht (ordinary_blockWriteBack ..))

theorem ends_storeMultiple (p u w : Bool) (rn : Reg) (list : BitVec 16) (value : Reg → Word) (s : State) :
    Ends (Ordinary s) (Halfway s) (storeMultiple p u w rn list value s) :=
  ends_andThen ((ends_storeBlock ..).mono (fun _ h => h) fun _ h => h.halfway) fun _ ht =>
    ends_next ((ht.ordinary.trans (ordinary_blockWriteBack ..).1).trans (ordinary_advance _).1)

/-- The loads of LDM(2): the user bank, and nothing else but the record of the devices. -/
theorem ends_userLoads (is : List Reg) (h15 : 15 ∉ is) (a : Word) (s : State) :
    Ends (fun t => Halfway s t ∧ t.mem = s.mem) (Halfway s) (loadBlock putUser is a s) := by
  have h := ends_loadBlock (put := putUser) (P := fun js t => 15 ∉ js ∧ Halfway s t ∧ t.mem = s.mem) is a s
    ⟨h15, Halfway.refl s, rfl⟩
    (fun _ _ _ ht hu => ⟨ht.1, ht.2.1.trans hu.halfway, by rw [hu]; exact ht.2.2⟩)
    (fun j _ v t ht => by
      obtain ⟨hn, hh, hm⟩ := ht
      simp only [List.mem_cons, not_or] at hn
      refine ⟨hn.2, hh.trans ⟨?_, by simp [putUser], by simp [putUser], by simp [putUser], by simp [putUser],
        by simp [putUser], by simp [putUser]⟩, by simpa [putUser] using hm⟩
      exact t.writeAs_pc .usr (Ne.symm hn.1) v)
  exact h.mono (fun t ht => ht.2) fun t ⟨_, _, ht⟩ => ht.2.1

/-! ### CP15 -/

theorem ends_withCp15 {P : State → Prop} {cp : BitVec 4} {rd : Reg} {s : State} {k : Out}
    (hk : s.mode ≠ .usr → Ends P (· = s) k) : Ends P (· = s) (withCp15 cp rd s k) := by
  unfold withCp15
  split
  · exact ends_raise _ rfl
  · split
    · exact ends_refuse _ rfl
    · rename_i hu
      split
      · exact ends_refuse _ rfl
      · exact hk (by simpa using hu)

/-- An MCR changes CP15's writable registers and the PC, and Control.B stays 0 (10_state.md R41). -/
theorem ends_writeCp15 (crn : BitVec 4) (op2 : BitVec 3) (v : Word) (s : State) :
    Ends (fun t => (∃ c, t = { s with cp15 := c }.advance ∧ c.mainId = s.cp15.mainId ∧ c.cacheType = s.cp15.cacheType ∧
      (s.cp15.control.getLsbD 7 = false → c.control.getLsbD 7 = false))) (· = s) (writeCp15 crn op2 v s) := by
  unfold writeCp15
  split
  · unfold writeControl
    split
    · exact ends_refuse _ rfl
    · rename_i hb
      exact ends_next ⟨_, rfl, rfl, rfl, fun _ => by simpa using hb⟩
  · exact ends_next ⟨_, rfl, rfl, rfl, id⟩
  · exact ends_next ⟨_, rfl, rfl, rfl, id⟩
  · exact ends_next ⟨_, rfl, rfl, rfl, id⟩
  · exact ends_next ⟨_, rfl, rfl, rfl, id⟩
  · exact ends_raise _ rfl

/-! ### Status registers -/

/-- The bits of a byte mask are those of the field mask (43_status_register.md R231). -/
theorem byteMask_getLsbD (m : BitVec 4) {k : Nat} (hk : k < 32) : (byteMask m).getLsbD k = m.getLsbD (k / 8) := by
  have h : ∀ (m : BitVec 4) (k : Fin 32), (byteMask m).getLsbD k.val = m.getLsbD (k.val / 8) := by decide
  exact h m ⟨k, hk⟩

/-- Each bit of the value an MSR leaves: the operand's where the field mask selects its byte, the old one elsewhere. -/
theorem merged_getLsbD (old op : Word) (mask : BitVec 4) {k : Nat} (hk : k < 32) :
    (merged old op (byteMask mask)).getLsbD k = if mask.getLsbD (k / 8) = true then op.getLsbD k else old.getLsbD k := by
  simp only [merged, BitVec.getLsbD_or, BitVec.getLsbD_and, BitVec.getLsbD_not, byteMask_getLsbD _ hk, hk, decide_true,
    Bool.true_and]
  cases mask.getLsbD (k / 8) <;> simp

/-- The reserved bits of a status register, one by one (10_state.md R29). -/
theorem reservedStatus_getLsbD {k : Nat} (hk : k < 32) : reservedStatus.getLsbD k = (decide (8 ≤ k) && decide (k < 28)) := by
  have h : ∀ k : Fin 32, reservedStatus.getLsbD k.val = (decide (8 ≤ k.val) && decide (k.val < 28)) := by decide
  exact h ⟨k, hk⟩

theorem reservedZero_iff (p : Word) : ReservedZero p ↔ ∀ k, 8 ≤ k → k < 28 → p.getLsbD k = false := by
  constructor
  · intro h k h8 h28
    have := congrArg (fun w : Word => w.getLsbD k) h
    simpa [reservedStatus_getLsbD (show k < 32 by omega), h8, h28] using this
  · intro h
    apply BitVec.eq_of_getLsbD_eq
    intro k hk
    by_cases hr : 8 ≤ k ∧ k < 28
    · simp [h k hr.1 hr.2]
    · have : (decide (8 ≤ k) && decide (k < 28)) = false := by simpa using hr
      simp [reservedStatus_getLsbD hk, this]

/-- An MSR that passes the reserved-bits check keeps bits 27:8 zero. -/
theorem reservedZero_merged {old op : Word} {mask : BitVec 4} (h : ReservedZero old)
    (hop : ¬(op &&& byteMask mask &&& reservedStatus != 0) = true) : ReservedZero (merged old op (byteMask mask)) := by
  rw [bne_iff_ne, ne_eq, Decidable.not_not] at hop
  rw [reservedZero_iff] at h ⊢
  intro k h8 h28
  have hk : k < 32 := by omega
  rw [merged_getLsbD _ _ _ hk]
  split
  · rename_i hm
    have := congrArg (fun w : Word => w.getLsbD k) hop
    simpa [byteMask_getLsbD _ hk, hm, reservedStatus_getLsbD hk, h8, h28] using this
  · exact h k h8 h28

/-- What an MSR leaves: one status register changed, valid and with bits 27:8 kept zero; CPSR's control byte never in
usr mode. -/
structure MsrLeaves (r : Bool) (s t : State) : Prop where
  cpsr : r = false → statusValid t.cpsr = true ∧ (ReservedZero s.cpsr → ReservedZero t.cpsr) ∧
    (s.mode = .usr → t.cpsr.extractLsb' 0 8 = s.cpsr.extractLsb' 0 8) ∧ t.spsr = s.spsr
  spsr : r = true → t.cpsr = s.cpsr ∧ ∃ k v, s.mode.spsrCell = some k ∧ t.spsr = s.spsr.set k v ∧
    (ReservedZero (s.spsr.get k) → ReservedZero v)
  rest : t.regs = s.regs ∧ t.cp15 = s.cp15 ∧ t.mem = s.mem ∧ t.stop = s.stop ∧ t.params = s.params

theorem ends_msr (r : Bool) (mask : BitVec 4) (op : Word) (pcOperand : Bool) (s : State) :
    Ends (MsrLeaves r s) (· = s) (msr r mask op pcOperand s) := by
  unfold msr
  split
  · exact ends_raise _ rfl
  · rename_i old hold
    obtain ⟨k, hk, rfl⟩ : ∃ k, s.mode.spsrCell = some k ∧ s.spsr.get k = old := by simpa [readSpsr_eq] using hold
    split
    · exact ends_raise _ rfl
    · split
      · exact ends_refuse _ rfl
      · unfold msrSpsr
        simp only
        split
        · exact ends_refuse _ rfl
        · refine ends_next ⟨(fun h => by cases h), fun _ => ?_, ?_⟩
          · simp only [State.writeSpsr, hk]
            exact ⟨rfl, k, _, rfl, rfl, fun h => reservedZero_merged h ‹_›⟩
          · simp
  · split
    · exact ends_raise _ rfl
    · split
      · exact ends_refuse _ rfl
      · unfold msrCpsr
        simp only
        split
        · exact ends_refuse _ rfl
        · rename_i hu
          split
          · exact ends_refuse _ rfl
          · rename_i hv
            refine ends_next ⟨fun _ => ⟨by simpa using hv, fun h => reservedZero_merged h ‹_›, fun husr => ?_, rfl⟩,
              (fun h => by cases h), rfl, rfl, rfl, rfl, rfl⟩
            have hm : mask.getLsbD 0 = false := by simpa [husr] using hu
            apply BitVec.eq_of_getLsbD_eq
            intro j hj
            simp only [BitVec.getLsbD_extractLsb', hj, decide_true, Bool.true_and, Nat.zero_add, State.advance_cpsr,
              merged_getLsbD _ _ _ (show j < 32 by omega), show j / 8 = 0 by omega, hm]
            rfl

/-! ### Taking an exception -/

/-- Entry into svc or abt mode: where the old status, the return address and the PC go (60_exceptions.md R338). -/
theorem takeException_eq (s : State) (m : Mode) (off : Word) {k : SpsrCell} (hk : m.spsrCell = some k) :
    s.takeException m off = { s with cpsr := entryStatus m s.cpsr, spsr := s.spsr.set k s.cpsr,
                                     regs := s.regs.set m.r14 (s.pc + 4), pc := s.vectorBase + off } := by
  have hm : ({ s with cpsr := entryStatus m s.cpsr } : State).mode = m := by simp [State.mode]
  have hw : ({ s with cpsr := entryStatus m s.cpsr } : State).writeSpsr s.cpsr =
      { s with cpsr := entryStatus m s.cpsr, spsr := s.spsr.set k s.cpsr } := by
    unfold State.writeSpsr; rw [hm, hk]
  have hm2 : ({ s with cpsr := entryStatus m s.cpsr, spsr := s.spsr.set k s.cpsr } : State).mode = m := by
    simp [State.mode]
  have hc : m.cell 14 = some m.r14 := rfl
  unfold State.takeException
  rw [hw]
  unfold State.writeReg State.writeAs
  rw [hm2, hc]
  rfl

/-- The entry status: a valid one, with bits 27:8 as they were. -/
theorem entryStatus_valid (m : Mode) (p : Word) : statusValid (entryStatus m p) = true := by
  have : tBit (entryStatus m p) = false := by rw [tBit, entryStatus_getLsbD]; simp
  simp [statusValid, this]

theorem entryStatus_reservedZero {m : Mode} {p : Word} (h : ReservedZero p) : ReservedZero (entryStatus m p) := by
  rw [reservedZero_iff] at h ⊢
  intro k h8 h28
  rw [entryStatus_getLsbD, if_neg (by omega), if_neg (by omega), if_neg (by omega)]
  exact h k h8 h28

end Sys2Proof.Machine
end

