-- ==== Sys2Proof/Laws/PerInstr.lean ====
section
/-! SUPPORT. The family F of LAWS.json: the word of every instruction carries the instruction's own condition in bits
31:28 (30_encoding.md R121), so a word the encoder makes is never one of the reserved condition. -/

namespace Sys2Proof

/-! ### The word of each format -/

theorem block15Word_cond {m : Word} (h : condField m = 0#4) (c : Cond) (p u w : Bool) (rn : Reg) (list : BitVec 15) :
    condField (block15Word m c p u w rn list) = c.bits := by
  rw [block15Word, condField_or, condField_or, condField_or, condField_or, h, condField_condBits, condField_puw,
    condField_regField _ (by omega), condField_fieldAt _ (by omega)]
  simp only [BitVec.or_zero, BitVec.zero_or]

theorem block16Word_cond {m : Word} (h : condField m = 0#4) (c : Cond) (p u w : Bool) (rn : Reg) (list : BitVec 16) :
    condField (block16Word m c p u w rn list) = c.bits := by
  rw [block16Word, condField_or, condField_or, condField_or, condField_or, h, condField_condBits, condField_puw,
    condField_regField _ (by omega), condField_fieldAt _ (by omega)]
  simp only [BitVec.or_zero, BitVec.zero_or]

theorem branchWord_cond {m : Word} (h : condField m = 0#4) (c : Cond) (off : BitVec 24) :
    condField (branchWord m c off) = c.bits := by
  rw [branchWord, condField_or, condField_or, h, condField_condBits, condField_fieldAt _ (by omega)]
  simp only [BitVec.or_zero, BitVec.zero_or]

theorem bxWord_cond {m : Word} (h : condField m = 0#4) (c : Cond) (rm : Reg) :
    condField (bxWord m c rm) = c.bits := by
  rw [bxWord, condField_or, condField_or, h, condField_condBits, condField_regField _ (by omega)]
  simp only [BitVec.or_zero, BitVec.zero_or]

theorem clzWord_cond {m : Word} (h : condField m = 0#4) (c : Cond) (rd rm : Reg) :
    condField (clzWord m c rd rm) = c.bits := by
  rw [clzWord, condField_or, condField_or, condField_or, h, condField_condBits, condField_regField _ (by omega),
    condField_regField _ (by omega)]
  simp only [BitVec.or_zero, BitVec.zero_or]

theorem cmpImmWord_cond {m : Word} (h : condField m = 0#4) (c : Cond) (rn : Reg) (op : ImmOp) :
    condField (cmpImmWord m c rn op) = c.bits := by
  rw [cmpImmWord, condField_or, condField_or, condField_or, h, condField_condBits, condField_regField _ (by omega),
    condField_immOp]
  simp only [BitVec.or_zero, BitVec.zero_or]

theorem cmpRsiWord_cond {m : Word} (h : condField m = 0#4) (c : Cond) (rn : Reg) (op : RsiOp) :
    condField (cmpRsiWord m c rn op) = c.bits := by
  rw [cmpRsiWord, condField_or, condField_or, condField_or, h, condField_condBits, condField_regField _ (by omega),
    condField_rsiOp]
  simp only [BitVec.or_zero, BitVec.zero_or]

theorem cmpRsrWord_cond {m : Word} (h : condField m = 0#4) (c : Cond) (rn : Reg) (op : RsrOp) :
    condField (cmpRsrWord m c rn op) = c.bits := by
  rw [cmpRsrWord, condField_or, condField_or, condField_or, h, condField_condBits, condField_regField _ (by omega),
    condField_rsrOp]
  simp only [BitVec.or_zero, BitVec.zero_or]

theorem coprocWord_cond {m : Word} (h : condField m = 0#4) (c : Cond) (op1 : BitVec 3) (crn : BitVec 4) (rd : Reg)
    (cp : BitVec 4) (op2 : BitVec 3) (crm : BitVec 4) :
    condField (coprocWord m c op1 crn rd cp op2 crm) = c.bits := by
  rw [coprocWord, condField_or, condField_or, condField_or, condField_or, condField_or, condField_or, condField_or, h,
    condField_condBits, condField_fieldAt _ (by omega), condField_fieldAt _ (by omega),
    condField_regField _ (by omega), condField_fieldAt _ (by omega), condField_fieldAt _ (by omega),
    condField_fieldAt _ (by omega)]
  simp only [BitVec.or_zero, BitVec.zero_or]

theorem dpImmWord_cond {m : Word} (h : condField m = 0#4) (c : Cond) (f : Bool) (rn rd : Reg) (op : ImmOp) :
    condField (dpImmWord m c f rn rd op) = c.bits := by
  rw [dpImmWord, condField_or, condField_or, condField_or, condField_or, condField_or, h, condField_condBits,
    condField_bitAt _ (by omega), condField_regField _ (by omega), condField_regField _ (by omega), condField_immOp]
  simp only [BitVec.or_zero, BitVec.zero_or]

theorem dpRsiWord_cond {m : Word} (h : condField m = 0#4) (c : Cond) (f : Bool) (rn rd : Reg) (op : RsiOp) :
    condField (dpRsiWord m c f rn rd op) = c.bits := by
  rw [dpRsiWord, condField_or, condField_or, condField_or, condField_or, condField_or, h, condField_condBits,
    condField_bitAt _ (by omega), condField_regField _ (by omega), condField_regField _ (by omega), condField_rsiOp]
  simp only [BitVec.or_zero, BitVec.zero_or]

theorem dpRsrWord_cond {m : Word} (h : condField m = 0#4) (c : Cond) (f : Bool) (rn rd : Reg) (op : RsrOp) :
    condField (dpRsrWord m c f rn rd op) = c.bits := by
  rw [dpRsrWord, condField_or, condField_or, condField_or, condField_or, condField_or, h, condField_condBits,
    condField_bitAt _ (by omega), condField_regField _ (by omega), condField_regField _ (by omega), condField_rsrOp]
  simp only [BitVec.or_zero, BitVec.zero_or]

theorem halfImmWord_cond {m : Word} (h : condField m = 0#4) (c : Cond) (p u w : Bool) (rn rd : Reg) (off : BitVec 8) :
    condField (halfImmWord m c p u w rn rd off) = c.bits := by
  rw [halfImmWord, condField_or, condField_or, condField_or, condField_or, condField_or, condField_or, h,
    condField_condBits, condField_puw, condField_regField _ (by omega), condField_regField _ (by omega),
    condField_fieldAt _ (by omega), condField_fieldAt _ (by omega)]
  simp only [BitVec.or_zero, BitVec.zero_or]

theorem halfRegWord_cond {m : Word} (h : condField m = 0#4) (c : Cond) (p u w : Bool) (rn rd rm : Reg) :
    condField (halfRegWord m c p u w rn rd rm) = c.bits := by
  rw [halfRegWord, condField_or, condField_or, condField_or, condField_or, condField_or, h, condField_condBits,
    condField_puw, condField_regField _ (by omega), condField_regField _ (by omega), condField_regField _ (by omega)]
  simp only [BitVec.or_zero, BitVec.zero_or]

theorem lsImmPostWord_cond {m : Word} (h : condField m = 0#4) (c : Cond) (u : Bool) (rn rd : Reg) (off : BitVec 12) :
    condField (lsImmPostWord m c u rn rd off) = c.bits := by
  rw [lsImmPostWord, condField_or, condField_or, condField_or, condField_or, condField_or, h, condField_condBits,
    condField_bitAt _ (by omega), condField_regField _ (by omega), condField_regField _ (by omega),
    condField_fieldAt _ (by omega)]
  simp only [BitVec.or_zero, BitVec.zero_or]

theorem lsImmPreWord_cond {m : Word} (h : condField m = 0#4) (c : Cond) (u w : Bool) (rn rd : Reg) (off : BitVec 12) :
    condField (lsImmPreWord m c u w rn rd off) = c.bits := by
  rw [lsImmPreWord, condField_or, condField_or, condField_or, condField_or, condField_or, condField_or, h,
    condField_condBits, condField_bitAt _ (by omega), condField_bitAt _ (by omega), condField_regField _ (by omega),
    condField_regField _ (by omega), condField_fieldAt _ (by omega)]
  simp only [BitVec.or_zero, BitVec.zero_or]

theorem lsRegPostWord_cond {m : Word} (h : condField m = 0#4) (c : Cond) (u : Bool) (rn rd : Reg) (op : RsiOp) :
    condField (lsRegPostWord m c u rn rd op) = c.bits := by
  rw [lsRegPostWord, condField_or, condField_or, condField_or, condField_or, condField_or, h, condField_condBits,
    condField_bitAt _ (by omega), condField_regField _ (by omega), condField_regField _ (by omega), condField_rsiOp]
  simp only [BitVec.or_zero, BitVec.zero_or]

theorem lsRegPreWord_cond {m : Word} (h : condField m = 0#4) (c : Cond) (u w : Bool) (rn rd : Reg) (op : RsiOp) :
    condField (lsRegPreWord m c u w rn rd op) = c.bits := by
  rw [lsRegPreWord, condField_or, condField_or, condField_or, condField_or, condField_or, condField_or, h,
    condField_condBits, condField_bitAt _ (by omega), condField_bitAt _ (by omega), condField_regField _ (by omega),
    condField_regField _ (by omega), condField_rsiOp]
  simp only [BitVec.or_zero, BitVec.zero_or]

theorem mlaWord_cond {m : Word} (h : condField m = 0#4) (c : Cond) (f : Bool) (rd rn rs rm : Reg) :
    condField (mlaWord m c f rd rn rs rm) = c.bits := by
  rw [mlaWord, condField_or, condField_or, condField_or, condField_or, condField_or, condField_or, h,
    condField_condBits, condField_bitAt _ (by omega), condField_regField _ (by omega),
    condField_regField _ (by omega), condField_regField _ (by omega), condField_regField _ (by omega)]
  simp only [BitVec.or_zero, BitVec.zero_or]

theorem movImmWord_cond {m : Word} (h : condField m = 0#4) (c : Cond) (f : Bool) (rd : Reg) (op : ImmOp) :
    condField (movImmWord m c f rd op) = c.bits := by
  rw [movImmWord, condField_or, condField_or, condField_or, condField_or, h, condField_condBits,
    condField_bitAt _ (by omega), condField_regField _ (by omega), condField_immOp]
  simp only [BitVec.or_zero, BitVec.zero_or]

theorem movRsiWord_cond {m : Word} (h : condField m = 0#4) (c : Cond) (f : Bool) (rd : Reg) (op : RsiOp) :
    condField (movRsiWord m c f rd op) = c.bits := by
  rw [movRsiWord, condField_or, condField_or, condField_or, condField_or, h, condField_condBits,
    condField_bitAt _ (by omega), condField_regField _ (by omega), condField_rsiOp]
  simp only [BitVec.or_zero, BitVec.zero_or]

theorem movRsrWord_cond {m : Word} (h : condField m = 0#4) (c : Cond) (f : Bool) (rd : Reg) (op : RsrOp) :
    condField (movRsrWord m c f rd op) = c.bits := by
  rw [movRsrWord, condField_or, condField_or, condField_or, condField_or, h, condField_condBits,
    condField_bitAt _ (by omega), condField_regField _ (by omega), condField_rsrOp]
  simp only [BitVec.or_zero, BitVec.zero_or]

theorem mrsWord_cond {m : Word} (h : condField m = 0#4) (c : Cond) (r : Bool) (rd : Reg) :
    condField (mrsWord m c r rd) = c.bits := by
  rw [mrsWord, condField_or, condField_or, condField_or, h, condField_condBits, condField_bitAt _ (by omega),
    condField_regField _ (by omega)]
  simp only [BitVec.or_zero, BitVec.zero_or]

theorem msrImmWord_cond {m : Word} (h : condField m = 0#4) (c : Cond) (r : Bool) (mask : BitVec 4) (op : ImmOp) :
    condField (msrImmWord m c r mask op) = c.bits := by
  rw [msrImmWord, condField_or, condField_or, condField_or, condField_or, h, condField_condBits,
    condField_bitAt _ (by omega), condField_fieldAt _ (by omega), condField_immOp]
  simp only [BitVec.or_zero, BitVec.zero_or]

theorem msrRegWord_cond {m : Word} (h : condField m = 0#4) (c : Cond) (r : Bool) (mask : BitVec 4) (rm : Reg) :
    condField (msrRegWord m c r mask rm) = c.bits := by
  rw [msrRegWord, condField_or, condField_or, condField_or, condField_or, h, condField_condBits,
    condField_bitAt _ (by omega), condField_fieldAt _ (by omega), condField_regField _ (by omega)]
  simp only [BitVec.or_zero, BitVec.zero_or]

theorem mulWord_cond {m : Word} (h : condField m = 0#4) (c : Cond) (f : Bool) (rd rs rm : Reg) :
    condField (mulWord m c f rd rs rm) = c.bits := by
  rw [mulWord, condField_or, condField_or, condField_or, condField_or, condField_or, h, condField_condBits,
    condField_bitAt _ (by omega), condField_regField _ (by omega), condField_regField _ (by omega),
    condField_regField _ (by omega)]
  simp only [BitVec.or_zero, BitVec.zero_or]

theorem mullWord_cond {m : Word} (h : condField m = 0#4) (c : Cond) (f : Bool) (rdHi rdLo rs rm : Reg) :
    condField (mullWord m c f rdHi rdLo rs rm) = c.bits := by
  rw [mullWord, condField_or, condField_or, condField_or, condField_or, condField_or, condField_or, h,
    condField_condBits, condField_bitAt _ (by omega), condField_regField _ (by omega),
    condField_regField _ (by omega), condField_regField _ (by omega), condField_regField _ (by omega)]
  simp only [BitVec.or_zero, BitVec.zero_or]

theorem swiWord_cond {m : Word} (h : condField m = 0#4) (c : Cond) (imm : BitVec 24) :
    condField (swiWord m c imm) = c.bits := by
  rw [swiWord, condField_or, condField_or, h, condField_condBits, condField_fieldAt _ (by omega)]
  simp only [BitVec.or_zero, BitVec.zero_or]

theorem swpWord_cond {m : Word} (h : condField m = 0#4) (c : Cond) (rn rd rm : Reg) :
    condField (swpWord m c rn rd rm) = c.bits := by
  rw [swpWord, condField_or, condField_or, condField_or, condField_or, h, condField_condBits,
    condField_regField _ (by omega), condField_regField _ (by omega), condField_regField _ (by omega)]
  simp only [BitVec.or_zero, BitVec.zero_or]

end Sys2Proof

namespace Sys2Proof.Laws.F

/-- The condition field of an instruction's word is its condition's. -/
def Statement (i : Instr) : Prop := condField (encode i) = i.cond.bits

theorem bkptWord_cond {m : Word} (h : condField m = 0#4) (c : Cond) (imm : BitVec 16) :
    condField (bkptWord m c imm) = c.bits := by
  rw [bkptWord, condField_or, condField_or, condField_or, h, condField_condBits, condField_fieldAt _ (by omega),
    condField_fieldAt _ (by omega)]
  simp only [BitVec.or_zero, BitVec.zero_or]

/-! ### One lemma for each instruction -/

theorem mrs (c : Cond) (r : Bool) (rd : Reg) : Statement (.mrs c r rd) :=
  mrsWord_cond (by decide) ..

theorem msrReg (c : Cond) (r : Bool) (mask : BitVec 4) (rm : Reg) : Statement (.msrReg c r mask rm) :=
  msrRegWord_cond (by decide) ..

theorem bx (c : Cond) (rm : Reg) : Statement (.bx c rm) :=
  bxWord_cond (by decide) ..

theorem blxReg (c : Cond) (rm : Reg) : Statement (.blxReg c rm) :=
  bxWord_cond (by decide) ..

theorem clz (c : Cond) (rd rm : Reg) : Statement (.clz c rd rm) :=
  clzWord_cond (by decide) ..

theorem bkpt (c : Cond) (imm : BitVec 16) : Statement (.bkpt c imm) :=
  bkptWord_cond (by decide) ..

theorem mul (c : Cond) (f : Bool) (rd rs rm : Reg) : Statement (.mul c f rd rs rm) :=
  mulWord_cond (by decide) ..

theorem mla (c : Cond) (f : Bool) (rd rn rs rm : Reg) : Statement (.mla c f rd rn rs rm) :=
  mlaWord_cond (by decide) ..

theorem umull (c : Cond) (f : Bool) (rdHi rdLo rs rm : Reg) : Statement (.umull c f rdHi rdLo rs rm) :=
  mullWord_cond (by decide) ..

theorem umlal (c : Cond) (f : Bool) (rdHi rdLo rs rm : Reg) : Statement (.umlal c f rdHi rdLo rs rm) :=
  mullWord_cond (by decide) ..

theorem smull (c : Cond) (f : Bool) (rdHi rdLo rs rm : Reg) : Statement (.smull c f rdHi rdLo rs rm) :=
  mullWord_cond (by decide) ..

theorem smlal (c : Cond) (f : Bool) (rdHi rdLo rs rm : Reg) : Statement (.smlal c f rdHi rdLo rs rm) :=
  mullWord_cond (by decide) ..

theorem swp (c : Cond) (rn rd rm : Reg) : Statement (.swp c rn rd rm) :=
  swpWord_cond (by decide) ..

theorem swpb (c : Cond) (rn rd rm : Reg) : Statement (.swpb c rn rd rm) :=
  swpWord_cond (by decide) ..

theorem strhImm (c : Cond) (p u w : Bool) (rn rd : Reg) (off : BitVec 8) :
    Statement (.strhImm c p u w rn rd off) := halfImmWord_cond (by decide) ..

theorem strhReg (c : Cond) (p u w : Bool) (rn rd rm : Reg) : Statement (.strhReg c p u w rn rd rm) :=
  halfRegWord_cond (by decide) ..

theorem ldrhImm (c : Cond) (p u w : Bool) (rn rd : Reg) (off : BitVec 8) :
    Statement (.ldrhImm c p u w rn rd off) := halfImmWord_cond (by decide) ..

theorem ldrhReg (c : Cond) (p u w : Bool) (rn rd rm : Reg) : Statement (.ldrhReg c p u w rn rd rm) :=
  halfRegWord_cond (by decide) ..

theorem ldrsbImm (c : Cond) (p u w : Bool) (rn rd : Reg) (off : BitVec 8) :
    Statement (.ldrsbImm c p u w rn rd off) := halfImmWord_cond (by decide) ..

theorem ldrsbReg (c : Cond) (p u w : Bool) (rn rd rm : Reg) : Statement (.ldrsbReg c p u w rn rd rm) :=
  halfRegWord_cond (by decide) ..

theorem ldrshImm (c : Cond) (p u w : Bool) (rn rd : Reg) (off : BitVec 8) :
    Statement (.ldrshImm c p u w rn rd off) := halfImmWord_cond (by decide) ..

theorem ldrshReg (c : Cond) (p u w : Bool) (rn rd rm : Reg) : Statement (.ldrshReg c p u w rn rd rm) :=
  halfRegWord_cond (by decide) ..

theorem msrImm (c : Cond) (r : Bool) (mask : BitVec 4) (op : ImmOp) : Statement (.msrImm c r mask op) :=
  msrImmWord_cond (by decide) ..

theorem andImm (c : Cond) (f : Bool) (rn rd : Reg) (op : ImmOp) : Statement (.andImm c f rn rd op) :=
  dpImmWord_cond (by decide) ..

theorem andRsi (c : Cond) (f : Bool) (rn rd : Reg) (op : RsiOp) : Statement (.andRsi c f rn rd op) :=
  dpRsiWord_cond (by decide) ..

theorem andRsr (c : Cond) (f : Bool) (rn rd : Reg) (op : RsrOp) : Statement (.andRsr c f rn rd op) :=
  dpRsrWord_cond (by decide) ..

theorem eorImm (c : Cond) (f : Bool) (rn rd : Reg) (op : ImmOp) : Statement (.eorImm c f rn rd op) :=
  dpImmWord_cond (by decide) ..

theorem eorRsi (c : Cond) (f : Bool) (rn rd : Reg) (op : RsiOp) : Statement (.eorRsi c f rn rd op) :=
  dpRsiWord_cond (by decide) ..

theorem eorRsr (c : Cond) (f : Bool) (rn rd : Reg) (op : RsrOp) : Statement (.eorRsr c f rn rd op) :=
  dpRsrWord_cond (by decide) ..

theorem subImm (c : Cond) (f : Bool) (rn rd : Reg) (op : ImmOp) : Statement (.subImm c f rn rd op) :=
  dpImmWord_cond (by decide) ..

theorem subRsi (c : Cond) (f : Bool) (rn rd : Reg) (op : RsiOp) : Statement (.subRsi c f rn rd op) :=
  dpRsiWord_cond (by decide) ..

theorem subRsr (c : Cond) (f : Bool) (rn rd : Reg) (op : RsrOp) : Statement (.subRsr c f rn rd op) :=
  dpRsrWord_cond (by decide) ..

theorem rsbImm (c : Cond) (f : Bool) (rn rd : Reg) (op : ImmOp) : Statement (.rsbImm c f rn rd op) :=
  dpImmWord_cond (by decide) ..

theorem rsbRsi (c : Cond) (f : Bool) (rn rd : Reg) (op : RsiOp) : Statement (.rsbRsi c f rn rd op) :=
  dpRsiWord_cond (by decide) ..

theorem rsbRsr (c : Cond) (f : Bool) (rn rd : Reg) (op : RsrOp) : Statement (.rsbRsr c f rn rd op) :=
  dpRsrWord_cond (by decide) ..

theorem addImm (c : Cond) (f : Bool) (rn rd : Reg) (op : ImmOp) : Statement (.addImm c f rn rd op) :=
  dpImmWord_cond (by decide) ..

theorem addRsi (c : Cond) (f : Bool) (rn rd : Reg) (op : RsiOp) : Statement (.addRsi c f rn rd op) :=
  dpRsiWord_cond (by decide) ..

theorem addRsr (c : Cond) (f : Bool) (rn rd : Reg) (op : RsrOp) : Statement (.addRsr c f rn rd op) :=
  dpRsrWord_cond (by decide) ..

theorem adcImm (c : Cond) (f : Bool) (rn rd : Reg) (op : ImmOp) : Statement (.adcImm c f rn rd op) :=
  dpImmWord_cond (by decide) ..

theorem adcRsi (c : Cond) (f : Bool) (rn rd : Reg) (op : RsiOp) : Statement (.adcRsi c f rn rd op) :=
  dpRsiWord_cond (by decide) ..

theorem adcRsr (c : Cond) (f : Bool) (rn rd : Reg) (op : RsrOp) : Statement (.adcRsr c f rn rd op) :=
  dpRsrWord_cond (by decide) ..

theorem sbcImm (c : Cond) (f : Bool) (rn rd : Reg) (op : ImmOp) : Statement (.sbcImm c f rn rd op) :=
  dpImmWord_cond (by decide) ..

theorem sbcRsi (c : Cond) (f : Bool) (rn rd : Reg) (op : RsiOp) : Statement (.sbcRsi c f rn rd op) :=
  dpRsiWord_cond (by decide) ..

theorem sbcRsr (c : Cond) (f : Bool) (rn rd : Reg) (op : RsrOp) : Statement (.sbcRsr c f rn rd op) :=
  dpRsrWord_cond (by decide) ..

theorem rscImm (c : Cond) (f : Bool) (rn rd : Reg) (op : ImmOp) : Statement (.rscImm c f rn rd op) :=
  dpImmWord_cond (by decide) ..

theorem rscRsi (c : Cond) (f : Bool) (rn rd : Reg) (op : RsiOp) : Statement (.rscRsi c f rn rd op) :=
  dpRsiWord_cond (by decide) ..

theorem rscRsr (c : Cond) (f : Bool) (rn rd : Reg) (op : RsrOp) : Statement (.rscRsr c f rn rd op) :=
  dpRsrWord_cond (by decide) ..

theorem tstImm (c : Cond) (rn : Reg) (op : ImmOp) : Statement (.tstImm c rn op) :=
  cmpImmWord_cond (by decide) ..

theorem tstRsi (c : Cond) (rn : Reg) (op : RsiOp) : Statement (.tstRsi c rn op) :=
  cmpRsiWord_cond (by decide) ..

theorem tstRsr (c : Cond) (rn : Reg) (op : RsrOp) : Statement (.tstRsr c rn op) :=
  cmpRsrWord_cond (by decide) ..

theorem teqImm (c : Cond) (rn : Reg) (op : ImmOp) : Statement (.teqImm c rn op) :=
  cmpImmWord_cond (by decide) ..

theorem teqRsi (c : Cond) (rn : Reg) (op : RsiOp) : Statement (.teqRsi c rn op) :=
  cmpRsiWord_cond (by decide) ..

theorem teqRsr (c : Cond) (rn : Reg) (op : RsrOp) : Statement (.teqRsr c rn op) :=
  cmpRsrWord_cond (by decide) ..

theorem cmpImm (c : Cond) (rn : Reg) (op : ImmOp) : Statement (.cmpImm c rn op) :=
  cmpImmWord_cond (by decide) ..

theorem cmpRsi (c : Cond) (rn : Reg) (op : RsiOp) : Statement (.cmpRsi c rn op) :=
  cmpRsiWord_cond (by decide) ..

theorem cmpRsr (c : Cond) (rn : Reg) (op : RsrOp) : Statement (.cmpRsr c rn op) :=
  cmpRsrWord_cond (by decide) ..

theorem cmnImm (c : Cond) (rn : Reg) (op : ImmOp) : Statement (.cmnImm c rn op) :=
  cmpImmWord_cond (by decide) ..

theorem cmnRsi (c : Cond) (rn : Reg) (op : RsiOp) : Statement (.cmnRsi c rn op) :=
  cmpRsiWord_cond (by decide) ..

theorem cmnRsr (c : Cond) (rn : Reg) (op : RsrOp) : Statement (.cmnRsr c rn op) :=
  cmpRsrWord_cond (by decide) ..

theorem orrImm (c : Cond) (f : Bool) (rn rd : Reg) (op : ImmOp) : Statement (.orrImm c f rn rd op) :=
  dpImmWord_cond (by decide) ..

theorem orrRsi (c : Cond) (f : Bool) (rn rd : Reg) (op : RsiOp) : Statement (.orrRsi c f rn rd op) :=
  dpRsiWord_cond (by decide) ..

theorem orrRsr (c : Cond) (f : Bool) (rn rd : Reg) (op : RsrOp) : Statement (.orrRsr c f rn rd op) :=
  dpRsrWord_cond (by decide) ..

theorem movImm (c : Cond) (f : Bool) (rd : Reg) (op : ImmOp) : Statement (.movImm c f rd op) :=
  movImmWord_cond (by decide) ..

theorem movRsi (c : Cond) (f : Bool) (rd : Reg) (op : RsiOp) : Statement (.movRsi c f rd op) :=
  movRsiWord_cond (by decide) ..

theorem movRsr (c : Cond) (f : Bool) (rd : Reg) (op : RsrOp) : Statement (.movRsr c f rd op) :=
  movRsrWord_cond (by decide) ..

theorem bicImm (c : Cond) (f : Bool) (rn rd : Reg) (op : ImmOp) : Statement (.bicImm c f rn rd op) :=
  dpImmWord_cond (by decide) ..

theorem bicRsi (c : Cond) (f : Bool) (rn rd : Reg) (op : RsiOp) : Statement (.bicRsi c f rn rd op) :=
  dpRsiWord_cond (by decide) ..

theorem bicRsr (c : Cond) (f : Bool) (rn rd : Reg) (op : RsrOp) : Statement (.bicRsr c f rn rd op) :=
  dpRsrWord_cond (by decide) ..

theorem mvnImm (c : Cond) (f : Bool) (rd : Reg) (op : ImmOp) : Statement (.mvnImm c f rd op) :=
  movImmWord_cond (by decide) ..

theorem mvnRsi (c : Cond) (f : Bool) (rd : Reg) (op : RsiOp) : Statement (.mvnRsi c f rd op) :=
  movRsiWord_cond (by decide) ..

theorem mvnRsr (c : Cond) (f : Bool) (rd : Reg) (op : RsrOp) : Statement (.mvnRsr c f rd op) :=
  movRsrWord_cond (by decide) ..

theorem strImmPre (c : Cond) (u w : Bool) (rn rd : Reg) (off : BitVec 12) :
    Statement (.strImmPre c u w rn rd off) := lsImmPreWord_cond (by decide) ..

theorem strImmPost (c : Cond) (u : Bool) (rn rd : Reg) (off : BitVec 12) : Statement (.strImmPost c u rn rd off) :=
  lsImmPostWord_cond (by decide) ..

theorem strtImm (c : Cond) (u : Bool) (rn rd : Reg) (off : BitVec 12) : Statement (.strtImm c u rn rd off) :=
  lsImmPostWord_cond (by decide) ..

theorem strRegPre (c : Cond) (u w : Bool) (rn rd : Reg) (op : RsiOp) : Statement (.strRegPre c u w rn rd op) :=
  lsRegPreWord_cond (by decide) ..

theorem strRegPost (c : Cond) (u : Bool) (rn rd : Reg) (op : RsiOp) : Statement (.strRegPost c u rn rd op) :=
  lsRegPostWord_cond (by decide) ..

theorem strtReg (c : Cond) (u : Bool) (rn rd : Reg) (op : RsiOp) : Statement (.strtReg c u rn rd op) :=
  lsRegPostWord_cond (by decide) ..

theorem ldrImmPre (c : Cond) (u w : Bool) (rn rd : Reg) (off : BitVec 12) :
    Statement (.ldrImmPre c u w rn rd off) := lsImmPreWord_cond (by decide) ..

theorem ldrImmPost (c : Cond) (u : Bool) (rn rd : Reg) (off : BitVec 12) : Statement (.ldrImmPost c u rn rd off) :=
  lsImmPostWord_cond (by decide) ..

theorem ldrtImm (c : Cond) (u : Bool) (rn rd : Reg) (off : BitVec 12) : Statement (.ldrtImm c u rn rd off) :=
  lsImmPostWord_cond (by decide) ..

theorem ldrRegPre (c : Cond) (u w : Bool) (rn rd : Reg) (op : RsiOp) : Statement (.ldrRegPre c u w rn rd op) :=
  lsRegPreWord_cond (by decide) ..

theorem ldrRegPost (c : Cond) (u : Bool) (rn rd : Reg) (op : RsiOp) : Statement (.ldrRegPost c u rn rd op) :=
  lsRegPostWord_cond (by decide) ..

theorem ldrtReg (c : Cond) (u : Bool) (rn rd : Reg) (op : RsiOp) : Statement (.ldrtReg c u rn rd op) :=
  lsRegPostWord_cond (by decide) ..

theorem strbImmPre (c : Cond) (u w : Bool) (rn rd : Reg) (off : BitVec 12) :
    Statement (.strbImmPre c u w rn rd off) := lsImmPreWord_cond (by decide) ..

theorem strbImmPost (c : Cond) (u : Bool) (rn rd : Reg) (off : BitVec 12) :
    Statement (.strbImmPost c u rn rd off) := lsImmPostWord_cond (by decide) ..

theorem strbtImm (c : Cond) (u : Bool) (rn rd : Reg) (off : BitVec 12) : Statement (.strbtImm c u rn rd off) :=
  lsImmPostWord_cond (by decide) ..

theorem strbRegPre (c : Cond) (u w : Bool) (rn rd : Reg) (op : RsiOp) : Statement (.strbRegPre c u w rn rd op) :=
  lsRegPreWord_cond (by decide) ..

theorem strbRegPost (c : Cond) (u : Bool) (rn rd : Reg) (op : RsiOp) : Statement (.strbRegPost c u rn rd op) :=
  lsRegPostWord_cond (by decide) ..

theorem strbtReg (c : Cond) (u : Bool) (rn rd : Reg) (op : RsiOp) : Statement (.strbtReg c u rn rd op) :=
  lsRegPostWord_cond (by decide) ..

theorem ldrbImmPre (c : Cond) (u w : Bool) (rn rd : Reg) (off : BitVec 12) :
    Statement (.ldrbImmPre c u w rn rd off) := lsImmPreWord_cond (by decide) ..

theorem ldrbImmPost (c : Cond) (u : Bool) (rn rd : Reg) (off : BitVec 12) :
    Statement (.ldrbImmPost c u rn rd off) := lsImmPostWord_cond (by decide) ..

theorem ldrbtImm (c : Cond) (u : Bool) (rn rd : Reg) (off : BitVec 12) : Statement (.ldrbtImm c u rn rd off) :=
  lsImmPostWord_cond (by decide) ..

theorem ldrbRegPre (c : Cond) (u w : Bool) (rn rd : Reg) (op : RsiOp) : Statement (.ldrbRegPre c u w rn rd op) :=
  lsRegPreWord_cond (by decide) ..

theorem ldrbRegPost (c : Cond) (u : Bool) (rn rd : Reg) (op : RsiOp) : Statement (.ldrbRegPost c u rn rd op) :=
  lsRegPostWord_cond (by decide) ..

theorem ldrbtReg (c : Cond) (u : Bool) (rn rd : Reg) (op : RsiOp) : Statement (.ldrbtReg c u rn rd op) :=
  lsRegPostWord_cond (by decide) ..

theorem stm1 (c : Cond) (p u w : Bool) (rn : Reg) (list : BitVec 16) : Statement (.stm1 c p u w rn list) :=
  block16Word_cond (by decide) ..

theorem stm2 (c : Cond) (p u w : Bool) (rn : Reg) (list : BitVec 16) : Statement (.stm2 c p u w rn list) :=
  block16Word_cond (by decide) ..

theorem ldm1 (c : Cond) (p u w : Bool) (rn : Reg) (list : BitVec 16) : Statement (.ldm1 c p u w rn list) :=
  block16Word_cond (by decide) ..

theorem ldm2 (c : Cond) (p u w : Bool) (rn : Reg) (list : BitVec 15) : Statement (.ldm2 c p u w rn list) :=
  block15Word_cond (by decide) ..

theorem ldm3 (c : Cond) (p u w : Bool) (rn : Reg) (list : BitVec 15) : Statement (.ldm3 c p u w rn list) :=
  block15Word_cond (by decide) ..

theorem b (c : Cond) (off : BitVec 24) : Statement (.b c off) :=
  branchWord_cond (by decide) ..

theorem bl (c : Cond) (off : BitVec 24) : Statement (.bl c off) :=
  branchWord_cond (by decide) ..

theorem mcr (c : Cond) (op1 : BitVec 3) (crn : BitVec 4) (rd : Reg) (cp : BitVec 4) (op2 : BitVec 3) (crm : BitVec 4) :
    Statement (.mcr c op1 crn rd cp op2 crm) := coprocWord_cond (by decide) ..

theorem mrc (c : Cond) (op1 : BitVec 3) (crn : BitVec 4) (rd : Reg) (cp : BitVec 4) (op2 : BitVec 3) (crm : BitVec 4) :
    Statement (.mrc c op1 crn rd cp op2 crm) := coprocWord_cond (by decide) ..

theorem swi (c : Cond) (imm : BitVec 24) : Statement (.swi c imm) :=
  swiWord_cond (by decide) ..

end Sys2Proof.Laws.F
end

