-- ==== Sys2Proof/Laws/Runs.lean ====
section
/-! SUPPORT. A run of the host ends once: after one number of ticks, and in one of the three ways of
70_reset_and_hazards.md R362. -/

namespace Sys2Proof.Machine

theorem RunsTo.unique {l : Launch} {haltPc : Word} {n : Nat} {s t : State} (hs : RunsTo l haltPc n s)
    (ht : RunsTo l haltPc n t) : s = t :=
  Host.Outcome.next.inj (hs.1.symm.trans ht.1)

/-- After a tick count that ends well, no later count is a run of the host. -/
theorem EndsWell.last {l : Launch} {haltPc : Word} {m n : Nat} {t : State} (hm : EndsWell l haltPc m)
    (hn : RunsTo l haltPc n t) : n ≤ m := by
  obtain ⟨s, hs, hh⟩ := hm
  exact Nat.le_of_not_lt fun h => hn.2 m h s hs.1 hh

theorem EndsWell.once {l : Launch} {haltPc : Word} {m n : Nat} (hm : EndsWell l haltPc m) (hn : EndsWell l haltPc n) :
    m = n := by
  obtain ⟨s, hs, _⟩ := hm
  obtain ⟨t, ht, _⟩ := hn
  exact Nat.le_antisymm (EndsWell.last ⟨t, ht, ‹_›⟩ hs) (EndsWell.last ⟨s, hs, ‹_›⟩ ht)

/-- A run that ends in a fault does not end well after the same number of ticks. -/
theorem EndsInFault.not_endsWell {l : Launch} {haltPc : Word} {n : Nat} {f : Fault} (h : EndsInFault l haltPc n f) :
    ¬EndsWell l haltPc n := by
  obtain ⟨s, hs, hh, _⟩ := h
  rintro ⟨t, ht, hw⟩
  exact hh (hs.unique ht ▸ hw)

/-- A run that ends in a refusal does not end well after the same number of ticks. -/
theorem EndsRefused.not_endsWell {l : Launch} {haltPc : Word} {n : Nat} {q : Refusal} (h : EndsRefused l haltPc n q) :
    ¬EndsWell l haltPc n := by
  obtain ⟨s, hs, hh, _⟩ := h
  rintro ⟨t, ht, hw⟩
  exact hh (hs.unique ht ▸ hw)

end Sys2Proof.Machine
end

