-- ==== Sys2Proof/Tests/Slice0.lean ====
section
/-! SUPPORT. Tests: the ill-formed terms that the checks refuse, the words of each format written out from the table of
30_encoding.md, single steps whose results 95_test_vectors.md gives (V and W numbers in the comments), and for each
statement of Obligations.lean a concrete input that meets its hypotheses. -/

namespace Sys2Proof.Tests

open Sys2Proof.Machine Sys2Proof.Claims

/-! ### WellFormed -/

/-- The one static check: a BKPT whose condition is not AL is no word of the table (R130, R340). -/
theorem test_bkpt_condition_refused : (Instr.bkpt .eq 0).wellFormed = false := by decide

theorem test_bkpt_al_accepted : (Instr.bkpt .al 0xFFFF).wellFormed = true := by decide

/-- Its word is one the decoder refuses by name. -/
theorem test_bkpt_eq_word : decode (encode (.bkpt .eq 0)) = .shouldBeField .bkpt := by decide

/-! ### Decoding: words written out bit by bit from the formats of spec/30_encoding.md -/

/-- Every word decodes to the instruction beside it. -/
abbrev Decodes (l : List (Word × Instr)) : Prop := ∀ p ∈ l, decode p.1 = .instr p.2

theorem test_decode_status : Decodes [
    (0b0101_0001_0000_1111_0111_0000_0000_0000, .mrs .pl false 7),
    (0b1010_0001_0010_0010_1111_0000_0000_1110, .msrReg .ge false 2 14),
    (0b1000_0011_0010_0110_1111_1010_0000_1111, .msrImm .hi false 6 ⟨10, 15⟩)] := by decide

theorem test_decode_branch : Decodes [
    (0b1110_0001_0010_1111_1111_1111_0001_1001, .bx .al 9),
    (0b0011_0001_0010_1111_1111_1111_0011_0001, .blxReg .cc 1),
    (0b0001_1010_0110_1111_0000_0011_0110_1000, .b .ne 7275368),
    (0b0110_1011_0001_0001_1110_0010_0000_1100, .bl .vs 1171980)] := by decide

theorem test_decode_clz_bkpt_swi : Decodes [
    (0b0011_0001_0110_1111_0010_1111_0001_1001, .clz .cc 2 9),
    (0b1110_0001_0010_0110_1100_1011_0111_0001, .bkpt .al 27825),
    (0b1101_1111_1001_0000_1100_0001_1001_0011, .swi .le 9486739)] := by decide

theorem test_decode_multiply : Decodes [
    (0b0001_0000_0000_1011_0000_1010_1001_0001, .mul .ne false 11 10 1),
    (0b1001_0000_0011_0001_1110_0100_1001_1001, .mla .ls true 1 14 4 9),
    (0b0010_0000_1001_0111_0011_1001_1001_0010, .umull .cs true 7 3 9 2),
    (0b1001_0000_1011_1001_1110_1011_1001_0011, .umlal .ls true 9 14 11 3),
    (0b0001_0000_1100_0110_0010_1001_1001_1100, .smull .ne false 6 2 9 12),
    (0b0001_0000_1110_1010_0100_1000_1001_1011, .smlal .ne false 10 4 8 11)] := by decide

theorem test_decode_swap : Decodes [
    (0b1000_0001_0000_0111_1101_0000_1001_0110, .swp .hi 7 13 6),
    (0b0111_0001_0100_1010_1000_0000_1001_0110, .swpb .vc 10 8 6)] := by decide

theorem test_decode_halfword : Decodes [
    (0b0100_0000_0100_0010_1010_0101_1011_1001, .strhImm .mi false false false 2 10 89),
    (0b0111_0001_1010_1010_0010_0000_1011_1001, .strhReg .vc true true true 10 2 9),
    (0b0110_0000_1101_1000_0111_0001_1011_1011, .ldrhImm .vs false true false 8 7 27),
    (0b0001_0001_1011_1010_1000_0000_1011_1101, .ldrhReg .ne true true true 10 8 13),
    (0b0111_0000_0111_1000_1100_1011_1101_0010, .ldrsbImm .vc false false true 8 12 178),
    (0b0000_0001_1011_1100_0111_0000_1101_1011, .ldrsbReg .eq true true true 12 7 11),
    (0b0101_0000_1111_0011_1010_0010_1111_1000, .ldrshImm .pl false true true 3 10 40),
    (0b0000_0000_1001_1100_0100_0000_1111_0111, .ldrshReg .eq false true false 12 4 7)] := by decide

theorem test_decode_dp_imm : Decodes [
    (0b0110_0010_0001_0010_0011_1000_0110_0111, .andImm .vs true 2 3 ⟨8, 103⟩),
    (0b1000_0010_0011_0011_1110_0111_1101_1110, .eorImm .hi true 3 14 ⟨7, 222⟩),
    (0b1000_0010_0101_1100_0111_0110_1010_1111, .subImm .hi true 12 7 ⟨6, 175⟩),
    (0b1110_0010_0111_0100_0011_0010_0010_1110, .rsbImm .al true 4 3 ⟨2, 46⟩),
    (0b0010_0010_1000_1011_0100_0001_0111_1101, .addImm .cs false 11 4 ⟨1, 125⟩),
    (0b1101_0010_1010_0101_0001_0011_0110_1100, .adcImm .le false 5 1 ⟨3, 108⟩),
    (0b1000_0010_1101_1010_0110_0011_1011_0001, .sbcImm .hi true 10 6 ⟨3, 177⟩),
    (0b1101_0010_1110_1000_1110_1101_1111_0100, .rscImm .le false 8 14 ⟨13, 244⟩),
    (0b1101_0011_0001_1011_0000_1101_1001_0000, .tstImm .le 11 ⟨13, 144⟩),
    (0b0110_0011_0011_0111_0000_0111_0110_0101, .teqImm .vs 7 ⟨7, 101⟩),
    (0b0001_0011_0101_1000_0000_1011_0110_0111, .cmpImm .ne 8 ⟨11, 103⟩),
    (0b0000_0011_0111_0100_0000_0010_1111_1101, .cmnImm .eq 4 ⟨2, 253⟩),
    (0b0011_0011_1001_0011_0010_0110_1001_1010, .orrImm .cc true 3 2 ⟨6, 154⟩),
    (0b0000_0011_1010_0000_0001_1010_0010_0111, .movImm .eq false 1 ⟨10, 39⟩),
    (0b1000_0011_1100_0110_1010_0001_0001_0011, .bicImm .hi false 6 10 ⟨1, 19⟩),
    (0b1101_0011_1110_0000_1010_0111_0010_0111, .mvnImm .le false 10 ⟨7, 39⟩)] := by decide

theorem test_decode_dp_rsi : Decodes [
    (0b1010_0000_0001_0110_1010_0110_0100_0010, .andRsi .ge true 6 10 ⟨12, .asr, 2⟩),
    (0b0001_0000_0011_1000_0101_0001_1010_0010, .eorRsi .ne true 8 5 ⟨3, .lsr, 2⟩),
    (0b1011_0000_0101_1100_0101_1000_0010_1001, .subRsi .lt true 12 5 ⟨16, .lsr, 9⟩),
    (0b0000_0000_0110_1001_0110_0010_1010_1101, .rsbRsi .eq false 9 6 ⟨5, .lsr, 13⟩),
    (0b1000_0000_1001_1011_1110_0001_1100_1001, .addRsi .hi true 11 14 ⟨3, .asr, 9⟩),
    (0b0101_0000_1010_0110_1101_0100_0100_1011, .adcRsi .pl false 6 13 ⟨8, .asr, 11⟩),
    (0b0011_0000_1100_1101_0100_1101_1100_1100, .sbcRsi .cc false 13 4 ⟨27, .asr, 12⟩),
    (0b1100_0000_1110_0100_1001_1000_0100_1100, .rscRsi .gt false 4 9 ⟨16, .asr, 12⟩),
    (0b0000_0001_0001_0001_0000_1101_0100_1000, .tstRsi .eq 1 ⟨26, .asr, 8⟩),
    (0b0100_0001_0011_0100_0000_1011_1100_1000, .teqRsi .mi 4 ⟨23, .asr, 8⟩),
    (0b1100_0001_0101_1100_0000_0110_0100_0010, .cmpRsi .gt 12 ⟨12, .asr, 2⟩),
    (0b0011_0001_0111_0010_0000_0100_0100_0100, .cmnRsi .cc 2 ⟨8, .asr, 4⟩),
    (0b0101_0001_1000_1000_1010_1110_1010_1011, .orrRsi .pl false 8 10 ⟨29, .lsr, 11⟩),
    (0b0101_0001_1010_0000_1110_1011_0010_0111, .movRsi .pl false 14 ⟨22, .lsr, 7⟩),
    (0b1100_0001_1100_1000_0011_0111_0100_0010, .bicRsi .gt false 8 3 ⟨14, .asr, 2⟩),
    (0b1100_0001_1111_0000_1000_0110_1010_1100, .mvnRsi .gt true 8 ⟨13, .lsr, 12⟩)] := by decide

theorem test_decode_dp_rsr : Decodes [
    (0b0010_0000_0000_0011_0001_1010_0101_1101, .andRsr .cs false 3 1 ⟨10, .asr, 13⟩),
    (0b1010_0000_0010_1010_1110_1000_0101_0011, .eorRsr .ge false 10 14 ⟨8, .asr, 3⟩),
    (0b1000_0000_0100_0001_1101_1100_0011_1001, .subRsr .hi false 1 13 ⟨12, .lsr, 9⟩),
    (0b1011_0000_0110_0111_1110_0100_0011_0001, .rsbRsr .lt false 7 14 ⟨4, .lsr, 1⟩),
    (0b0100_0000_1000_0101_1001_0100_0101_0111, .addRsr .mi false 5 9 ⟨4, .asr, 7⟩),
    (0b1101_0000_1010_0001_1100_0110_0101_1011, .adcRsr .le false 1 12 ⟨6, .asr, 11⟩),
    (0b1001_0000_1101_1110_1001_0011_0011_0001, .sbcRsr .ls true 14 9 ⟨3, .lsr, 1⟩),
    (0b1101_0000_1111_1101_0011_1010_0011_1000, .rscRsr .le true 13 3 ⟨10, .lsr, 8⟩),
    (0b1001_0001_0001_1100_0000_0010_0011_0110, .tstRsr .ls 12 ⟨2, .lsr, 6⟩),
    (0b1010_0001_0011_1001_0000_1000_0011_0001, .teqRsr .ge 9 ⟨8, .lsr, 1⟩),
    (0b0011_0001_0101_0100_0000_0101_0011_1101, .cmpRsr .cc 4 ⟨5, .lsr, 13⟩),
    (0b0001_0001_0111_1001_0000_1000_0011_1101, .cmnRsr .ne 9 ⟨8, .lsr, 13⟩),
    (0b1110_0001_1000_1000_0110_1010_0011_1100, .orrRsr .al false 8 6 ⟨10, .lsr, 12⟩),
    (0b0100_0001_1011_0000_1001_1101_0101_0100, .movRsr .mi true 9 ⟨13, .asr, 4⟩),
    (0b1011_0001_1101_1001_0100_1110_0101_0011, .bicRsr .lt true 9 4 ⟨14, .asr, 3⟩),
    (0b0110_0001_1110_0000_0111_1000_0101_0010, .mvnRsr .vs false 7 ⟨8, .asr, 2⟩)] := by decide

theorem test_decode_word_transfer : Decodes [
    (0b1010_0101_0000_0111_0010_1010_1011_0111, .strImmPre .ge false false 7 2 2743),
    (0b0100_0100_0000_1101_0011_1111_0000_1001, .strImmPost .mi false 13 3 3849),
    (0b1011_0100_1010_0011_0101_1110_0010_0001, .strtImm .lt true 3 5 3617),
    (0b0010_0111_1000_0100_1100_0110_1100_0011, .strRegPre .cs true false 4 12 ⟨13, .asr, 3⟩),
    (0b1010_0110_0000_0011_1100_0111_0100_0110, .strRegPost .ge false 3 12 ⟨14, .asr, 6⟩),
    (0b0110_0110_0010_0110_0010_1100_0100_0001, .strtReg .vs false 6 2 ⟨24, .asr, 1⟩),
    (0b0101_0101_1001_1000_1100_0110_0010_0111, .ldrImmPre .pl true false 8 12 1575),
    (0b0101_0100_1001_1001_0010_0001_1100_1111, .ldrImmPost .pl true 9 2 463),
    (0b1110_0100_0011_0010_0101_0100_0101_1010, .ldrtImm .al false 2 5 1114),
    (0b0000_0111_0001_0101_1101_1101_1100_1110, .ldrRegPre .eq false false 5 13 ⟨27, .asr, 14⟩),
    (0b1110_0110_1001_0111_0011_1001_0100_1100, .ldrRegPost .al true 7 3 ⟨18, .asr, 12⟩),
    (0b0101_0110_0011_0101_0001_1101_0010_0111, .ldrtReg .pl false 5 1 ⟨26, .lsr, 7⟩)] := by decide

theorem test_decode_byte_transfer : Decodes [
    (0b1110_0101_0100_0101_0001_1100_1101_0100, .strbImmPre .al false false 5 1 3284),
    (0b0100_0100_0100_1010_1110_0011_1000_1111, .strbImmPost .mi false 10 14 911),
    (0b0001_0100_1110_1110_0010_0111_0100_0011, .strbtImm .ne true 14 2 1859),
    (0b0000_0111_1110_1001_0111_1010_0010_0001, .strbRegPre .eq true true 9 7 ⟨20, .lsr, 1⟩),
    (0b1000_0110_0100_0010_0011_0100_1010_0100, .strbRegPost .hi false 2 3 ⟨9, .lsr, 4⟩),
    (0b1110_0110_1110_1011_0101_1000_1010_1000, .strbtReg .al true 11 5 ⟨17, .lsr, 8⟩),
    (0b1000_0101_0101_0101_0110_1111_1110_1010, .ldrbImmPre .hi false false 5 6 4074),
    (0b0100_0100_0101_0001_1100_1000_0001_1000, .ldrbImmPost .mi false 1 12 2072),
    (0b1000_0100_0111_1001_1000_0011_1110_1111, .ldrbtImm .hi false 9 8 1007),
    (0b1110_0111_1111_0010_1011_1011_0100_1001, .ldrbRegPre .al true true 2 11 ⟨22, .asr, 9⟩),
    (0b1101_0110_1101_1001_0101_1011_1010_0100, .ldrbRegPost .le true 9 5 ⟨23, .lsr, 4⟩),
    (0b0101_0110_0111_1110_1100_1100_0010_0111, .ldrbtReg .pl false 14 12 ⟨24, .lsr, 7⟩)] := by decide

theorem test_decode_block : Decodes [
    (0b0101_1000_0000_0010_1010_0000_0001_1110, .stm1 .pl false false false 2 40990),
    (0b1011_1001_1100_0001_0001_0101_1010_0001, .stm2 .lt true true false 1 5537),
    (0b1010_1001_1001_1100_0100_1011_0000_0110, .ldm1 .ge true true false 12 19206),
    (0b0000_1001_0101_0101_0011_1001_0001_0001, .ldm2 .eq true false false 5 14609),
    (0b0000_1001_1111_1001_1010_1001_0110_1010, .ldm3 .eq true true true 9 10602)] := by decide

theorem test_decode_coprocessor : Decodes [
    (0b0011_1110_0010_0101_0100_0110_0101_0001, .mcr .cc 1 5 4 6 2 1),
    (0b0101_1110_1001_0010_1000_0101_1011_1011, .mrc .pl 4 2 8 5 5 11)] := by decide

/-- Words that no row takes, the reserved condition, and a wrong should-be field, rejected by name. -/
theorem test_decode_rejects :
    decode 0xEE000F00 = .noRow ∧ decode 0xE7F000F0 = .noRow ∧ decode 0xF5D1F000 = .reservedCondition ∧
      decode 0xE1501001 = .shouldBeField .core := by decide

/-- The host's decoder of table words, and the bytes in between. -/
theorem test_decode_table_word : decodeTableWord 32 0xE12FFF31 = some (.blxReg .al 1) := by decide

/-! ### Small states -/

/-- The state after reset with registers set and a word placed where the next step fetches. -/
def armed (w : Word) (rs : List (Cell × Word)) : State :=
  State.withFetchWord { State.reset with regs := rs.foldl (fun r p => r.set p.1 p.2) .zero } 32 w.toNat

/-- With another CPSR. -/
def inStatus (p : Word) (s : State) : State := { s with cpsr := p }

/-- With another Control value. -/
def withControl (v : Word) (s : State) : State := { s with cp15 := { s.cp15 with control := v } }

/-- With words of memory. -/
def withWords (l : List (Word × Word)) (s : State) : State :=
  { s with mem := l.foldl (fun m p => m.store p.1 p.2 .word) s.mem }

/-- With a device at 0x10000000 to 0x10000FFF. -/
def withDevice (s : State) : State :=
  { s with params := { s.params with peripherals := [⟨0x10000000, 0x10000FFF⟩] } }

/-- What a step that goes on answers. -/
def seen {α : Type} (s : State) (f : State → α) : Option α :=
  match step s with
  | .next t => some (f t)
  | _ => none

/-- The stop record of a step that stops, and what else it leaves. -/
def stopped {α : Type} (s : State) (f : State → α) : Option (StopRecord × α) :=
  match step s with
  | .next _ => none
  | .fault q => some (q.left.stop, f q.left)
  | .refused q => q.left.map fun t => (t.stop, f t)

/-- The word at an address of memory. -/
def wordAt (a : Word) (s : State) : Word := s.mem.load a .word

/-- The data of 95_test_vectors.md's load vectors. -/
def loadData : List (Word × Word) := [(0x2000, 0x11223344), (0x2004, 0x55667788), (0x2008, 0x00003003)]

/-! ### Single steps: data processing -/

/-- V1: MOVS r0, r1 with C = 1. -/
theorem test_movs_lsl :
    seen (inStatus 0x200000D3 (armed 0xE1B00001 [(.r1, 0x80000000)])) (fun t => (t.regs.r0, t.cpsr)) = some (0x80000000, 0xA00000D3) := by decide

/-- V10: RRX shifts C in and bit 0 out. -/
theorem test_movs_rrx :
    seen (inStatus 0x200000D3 (armed 0xE1B00061 [(.r1, 3)])) (fun t => (t.regs.r0, t.cpsr)) = some (0x80000001, 0xA00000D3) := by decide

/-- V6: an immediate ASR amount of 0 means 32. -/
theorem test_movs_asr_32 :
    seen (armed 0xE1B00041 [(.r1, 0x80000000)]) (fun t => (t.regs.r0, t.cpsr)) = some (0xFFFFFFFF, 0xA00000D3) := by decide

/-- V12: LSL by register, amount 32: C is bit 0. -/
theorem test_lsl_by_32 :
    seen (armed 0xE1B00211 [(.r1, 1), (.r2, 32)]) (fun t => (t.regs.r0, t.cpsr)) = some (0, 0x600000D3) := by decide

/-- V14: only the low byte of Rs counts. -/
theorem test_shift_by_256 :
    seen (inStatus 0x200000D3 (armed 0xE1B00211 [(.r1, 0x12345678), (.r2, 0x100)])) (fun t => (t.regs.r0, t.cpsr)) = some (0x12345678, 0x200000D3) := by decide

/-- V19: ROR by register, amount 33. -/
theorem test_ror_by_33 :
    seen (armed 0xE1B00271 [(.r1, 0x80000001), (.r2, 33)]) (fun t => (t.regs.r0, t.cpsr)) = some (0xC0000000, 0xA00000D3) := by decide

/-- V23: r15 reads as A + 8. -/
theorem test_mov_pc_reads_8 :
    seen (armed 0xE1A0000F []) (fun t => t.regs.r0) = some 0x1008 := by decide

/-- V24. -/
theorem test_ands :
    seen (armed 0xE0110002 [(.r1, 0xF0F0F0F0), (.r2, 0x0FF00FF0)]) (fun t => (t.regs.r0, t.cpsr)) = some (0x00F000F0, 0x000000D3) := by decide

/-- V25. -/
theorem test_eors :
    seen (armed 0xE0310002 [(.r1, 0xFFFF0000), (.r2, 0xFFFF0000)]) (fun t => (t.regs.r0, t.cpsr)) = some (0, 0x400000D3) := by decide

/-- V26. -/
theorem test_subs_overflow :
    seen (armed 0xE0510002 [(.r1, 0x80000000), (.r2, 1)]) (fun t => (t.regs.r0, t.cpsr)) = some (0x7FFFFFFF, 0x300000D3) := by decide

/-- V27. -/
theorem test_subs_borrow :
    seen (armed 0xE0510002 [(.r1, 1), (.r2, 2)]) (fun t => (t.regs.r0, t.cpsr)) = some (0xFFFFFFFF, 0x800000D3) := by decide

/-- V29. -/
theorem test_rsbs :
    seen (armed 0xE2710000 [(.r1, 1)]) (fun t => (t.regs.r0, t.cpsr)) = some (0xFFFFFFFF, 0x800000D3) := by decide

/-- V30. -/
theorem test_adds_overflow :
    seen (armed 0xE2910001 [(.r1, 0x7FFFFFFF)]) (fun t => (t.regs.r0, t.cpsr)) = some (0x80000000, 0x900000D3) := by decide

/-- V32. -/
theorem test_adds_carry :
    seen (armed 0xE0910002 [(.r1, 0x80000000), (.r2, 0x80000000)]) (fun t => (t.regs.r0, t.cpsr)) = some (0, 0x700000D3) := by decide

/-- V34. -/
theorem test_adcs :
    seen (inStatus 0x200000D3 (armed 0xE0B10002 [(.r1, 0x7FFFFFFF)])) (fun t => (t.regs.r0, t.cpsr)) = some (0x80000000, 0x900000D3) := by decide

/-- V35: C = 0 borrows one more. -/
theorem test_sbcs :
    seen (armed 0xE0D10002 [(.r1, 5), (.r2, 5)]) (fun t => (t.regs.r0, t.cpsr)) = some (0xFFFFFFFF, 0x800000D3) := by decide

/-- V38. -/
theorem test_rscs :
    seen (inStatus 0x200000D3 (armed 0xE0F10002 [(.r1, 1), (.r2, 3)])) (fun t => (t.regs.r0, t.cpsr)) = some (2, 0x200000D3) := by decide

/-- V39. -/
theorem test_tst :
    seen (armed 0xE3110080 [(.r1, 0x7F)]) (fun t => t.cpsr) = some 0x400000D3 := by decide

/-- V40. -/
theorem test_teq :
    seen (armed 0xE1310002 [(.r1, 0x80000000)]) (fun t => t.cpsr) = some 0x800000D3 := by decide

/-- V42. -/
theorem test_cmp :
    seen (armed 0xE3510005 [(.r1, 4)]) (fun t => t.cpsr) = some 0x800000D3 := by decide

/-- V43. -/
theorem test_cmn :
    seen (armed 0xE3710001 [(.r1, 0xFFFFFFFF)]) (fun t => t.cpsr) = some 0x600000D3 := by decide

/-- V44. -/
theorem test_orr :
    seen (armed 0xE38104FF [(.r1, 1)]) (fun t => (t.regs.r0, t.cpsr)) = some (0xFF000001, 0x000000D3) := by decide

/-- V46. -/
theorem test_bic :
    seen (armed 0xE3C100FF [(.r1, 0x12345678)]) (fun t => t.regs.r0) = some 0x12345600 := by decide

/-- V47. -/
theorem test_mvns :
    seen (armed 0xE3F00000 []) (fun t => (t.regs.r0, t.cpsr)) = some (0xFFFFFFFF, 0x800000D3) := by decide

/-- V48. -/
theorem test_mov_pc :
    seen (armed 0xE1A0F00E [(.r14_svc, 0x2000)]) (fun t => (t.pc, t.cpsr)) = some (0x2000, 0x000000D3) := by decide

/-- V49: CPSR is the SPSR. -/
theorem test_movs_pc_restores :
    seen ({ armed 0xE1B0F00E [(.r14_svc, 0x2000)] with spsr := ⟨0x10, 0x10, 0x80000010, 0x10, 0x10⟩ }) (fun t => (t.pc, t.cpsr)) = some (0x2000, 0x80000010) := by decide

/-- V51: sys has no SPSR. -/
theorem test_movs_pc_no_spsr :
    stopped (inStatus 0x1F (armed 0xE1B0F00E [])) (fun t => t.pc) = some (.fault (.protocolViolation .noSpsr) 0x1000, 0x1000) := by decide

/-- V22. -/
theorem test_rsr_pc_refused :
    stopped (armed 0xE1A0011F []) (fun t => t.regs.r0) = some (.refusal .unpredictable 0x1000, 0) := by decide

/-! ### Single steps: multiplies and CLZ -/

/-- V54: C and V as they were. -/
theorem test_muls :
    seen (inStatus 0x300000D3 (armed 0xE0100291 [(.r1, 0xFFFFFFFF), (.r2, 2)])) (fun t => (t.regs.r0, t.cpsr)) = some (0xFFFFFFFE, 0xB00000D3) := by decide

/-- V56. -/
theorem test_mla :
    seen (armed 0xE0203291 [(.r1, 3), (.r2, 4), (.r3, 5)]) (fun t => t.regs.r0) = some 0x11 := by decide

/-- V58. -/
theorem test_umulls :
    seen (armed 0xE0910392 [(.r2, 0xFFFFFFFF), (.r3, 0xFFFFFFFF)]) (fun t => (t.regs.r0, t.regs.r1, t.cpsr)) = some (1, 0xFFFFFFFE, 0x800000D3) := by decide

/-- V59. -/
theorem test_umlal :
    seen (armed 0xE0A10392 [(.r0, 0xFFFFFFFF), (.r2, 1), (.r3, 1)]) (fun t => (t.regs.r0, t.regs.r1)) = some (0, 1) := by decide

/-- V60. -/
theorem test_smulls :
    seen (armed 0xE0D10392 [(.r2, 0xFFFFFFFF), (.r3, 2)]) (fun t => (t.regs.r0, t.regs.r1, t.cpsr)) = some (0xFFFFFFFE, 0xFFFFFFFF, 0x800000D3) := by decide

/-- V61. -/
theorem test_smlal :
    seen (armed 0xE0E10392 [(.r0, 1), (.r2, 0xFFFFFFFF), (.r3, 1)]) (fun t => (t.regs.r0, t.regs.r1)) = some (0, 0) := by decide

/-- V64. -/
theorem test_clz_zero :
    seen (armed 0xE16F0F11 []) (fun t => t.regs.r0) = some 32 := by decide

/-- V66. -/
theorem test_clz :
    seen (armed 0xE16F0F11 [(.r1, 0x00010000)]) (fun t => t.regs.r0) = some 15 := by decide

/-- V57: Rd = Rm. -/
theorem test_mul_refused :
    stopped (armed 0xE0000090 []) (fun t => t.regs.r0) = some (.refusal .unpredictable 0x1000, 0) := by decide

/-! ### Single steps: status registers and branches -/

/-- V70. -/
theorem test_mrs_spsr :
    seen ({ armed 0xE14F0000 [] with spsr := ⟨0x10, 0x10, 0x2000001F, 0x10, 0x10⟩ }) (fun t => t.regs.r0) = some 0x2000001F := by decide

/-- V69. -/
theorem test_mrs_cpsr :
    seen (armed 0xE10F0000 []) (fun t => t.regs.r0) = some 0xD3 := by decide

/-- V72. -/
theorem test_msr_imm :
    seen (armed 0xE328F20F []) (fun t => t.cpsr) = some 0xF00000D3 := by decide

/-- V77. -/
theorem test_msr_to_fiq :
    seen (armed 0xE121F000 [(.r0, 0xD1)]) (fun t => t.cpsr) = some 0xD1 := by decide

/-- V80. -/
theorem test_msr_spsr :
    seen (armed 0xE16FF000 [(.r0, 0x600000D3)]) (fun t => (t.spsr.svc, t.cpsr)) = some (0x600000D3, 0x000000D3) := by decide

/-- V74: the control byte in usr mode. -/
theorem test_msr_user :
    stopped (inStatus 0x10 (armed 0xE121F000 [(.r0, 0xD3)])) (fun t => t.cpsr) = some (.refusal .userControlWrite 0x1000, 0x10) := by decide

/-- V79. -/
theorem test_msr_reserved :
    stopped (armed 0xE122F000 [(.r0, 0xFF00)]) (fun t => t.cpsr) = some (.fault (.protocolViolation .reservedStatusBits) 0x1000, 0xD3) := by decide

/-- V85. -/
theorem test_b_backward :
    seen (armed 0xEA800000 []) (fun t => t.pc) = some 0xFE001008 := by decide

/-- V84. -/
theorem test_b_forward :
    seen (armed 0xEA7FFFFF []) (fun t => t.pc) = some 0x02001004 := by decide

/-- V87. -/
theorem test_bl :
    seen (armed 0xEB000001 []) (fun t => (t.regs.r14_svc, t.pc)) = some (0x1004, 0x100C) := by decide

/-- V88. -/
theorem test_beq_skipped :
    seen (armed 0x0A000001 []) (fun t => t.pc) = some 0x1004 := by decide

/-- V90. -/
theorem test_bx :
    seen (armed 0xE12FFF10 [(.r0, 0x2000)]) (fun t => t.pc) = some 0x2000 := by decide

/-- V91. -/
theorem test_bx_thumb :
    stopped (armed 0xE12FFF10 [(.r0, 0x2001)]) (fun t => t.pc) = some (.refusal .thumbUnsupported 0x1000, 0x1000) := by decide

/-- V92. -/
theorem test_blx :
    seen (armed 0xE12FFF31 [(.r1, 0x3000)]) (fun t => (t.regs.r14_svc, t.pc)) = some (0x1004, 0x3000) := by decide

/-! ### Single steps: single transfers -/

/-- V96. -/
theorem test_ldr_pre_back :
    seen (withWords loadData (armed 0xE5B10004 [(.r1, 0x2000)])) (fun t => (t.regs.r0, t.regs.r1)) = some (0x55667788, 0x2004) := by decide

/-- V97. -/
theorem test_ldr_post :
    seen (withWords loadData (armed 0xE4910004 [(.r1, 0x2000)])) (fun t => (t.regs.r0, t.regs.r1)) = some (0x11223344, 0x2004) := by decide

/-- V99: the loaded value wins over the write-back. -/
theorem test_ldr_rd_is_base :
    seen (withWords loadData (armed 0xE5B11004 [(.r1, 0x2000)])) (fun t => t.regs.r1) = some 0x55667788 := by decide

/-- V100: A = U = 0. -/
theorem test_ldr_rotated :
    seen (withWords loadData (armed 0xE5910001 [(.r1, 0x2000)])) (fun t => t.regs.r0) = some 0x44112233 := by decide

/-- V104: the write-back stays. -/
theorem test_ldr_fault_keeps_back :
    stopped (withControl 2 (withWords loadData (armed 0xE5B10001 [(.r1, 0x2000)]))) (fun t => t.regs.r1) = some (.fault (.alignment 0x2001 4 .read) 0x1000, 0x2001) := by decide

/-- V105. -/
theorem test_ldr_scaled :
    seen (withWords loadData (armed 0xE7910102 [(.r1, 0x2000), (.r2, 1)])) (fun t => t.regs.r0) = some 0x55667788 := by decide

/-- V107: the low two bits are cleared. -/
theorem test_ldr_pc :
    seen (withWords loadData (armed 0xE591F008 [(.r1, 0x2000)])) (fun t => t.pc) = some 0x3000 := by decide

/-- V108. -/
theorem test_str :
    seen (withWords loadData (armed 0xE5810000 [(.r0, 0xA5A5A5A5), (.r1, 0x2000)])) (fun t => wordAt 0x2000 t) = some 0xA5A5A5A5 := by decide

/-- V109: r15 stores A + 8. -/
theorem test_str_pc :
    seen (armed 0xE581F000 [(.r1, 0x2000)]) (fun t => wordAt 0x2000 t) = some 0x1008 := by decide

/-- V110. -/
theorem test_str_misaligned :
    stopped (armed 0xE5810002 [(.r1, 0x2000)]) (fun t => t.regs.r1) = some (.fault (.alignment 0x2002 4 .write) 0x1000, 0x2000) := by decide

/-- V112. -/
theorem test_ldrb :
    seen (withWords loadData (armed 0xE5D10003 [(.r1, 0x2000)])) (fun t => t.regs.r0) = some 0x11 := by decide

/-- V113. -/
theorem test_strb :
    seen (withWords loadData (armed 0xE5C10001 [(.r0, 0x123456AB), (.r1, 0x2000)])) (fun t => wordAt 0x2000 t) = some 0x1122AB44 := by decide

/-- V115. -/
theorem test_ldrh :
    seen (withWords loadData (armed 0xE1D100B0 [(.r1, 0x2000)])) (fun t => t.regs.r0) = some 0x3344 := by decide

/-- V117. -/
theorem test_strh :
    seen (withWords loadData (armed 0xE1C100B2 [(.r0, 0xFFFFBEEF), (.r1, 0x2000)])) (fun t => wordAt 0x2000 t) = some 0xBEEF3344 := by decide

/-- V118. -/
theorem test_ldrsb :
    seen (withWords [(0x200C, 0x80000080)] (armed 0xE1D100DC [(.r1, 0x2000)])) (fun t => t.regs.r0) = some 0xFFFFFF80 := by decide

/-- V119. -/
theorem test_ldrsh :
    seen (withWords [(0x200C, 0x80000080)] (armed 0xE1D100FE [(.r1, 0x2000)])) (fun t => t.regs.r0) = some 0xFFFF8000 := by decide

/-- V121. -/
theorem test_swp :
    seen (withWords loadData (armed 0xE1010092 [(.r1, 0x2000), (.r2, 0xAABBCCDD)])) (fun t => (t.regs.r0, wordAt 0x2000 t)) = some (0x11223344, 0xAABBCCDD) := by decide

/-- V122. -/
theorem test_swpb :
    seen (withWords loadData (armed 0xE1410092 [(.r1, 0x2001), (.r2, 0xAABBCCDD)])) (fun t => (t.regs.r0, wordAt 0x2000 t)) = some (0x33, 0x1122DD44) := by decide

/-- A state with the MMU on: section 0 maps to itself in domain 0 (a client) with the given AP field. -/
def sectionState (ap : Word) (w : Word) (rs : List (Cell × Word)) : State :=
  { withControl 1 (withWords ((0x4000, 0x00000002 ||| ap <<< 10) :: loadData) (armed w rs)) with
    cp15 := { State.reset.cp15 with control := 1, ttb := 0x4000, dacr := 1 } }

/-- V125: AP = 1 refuses an access without privilege. -/
theorem test_ldrt_unprivileged :
    stopped (sectionState 1 0xE4B10000 [(.r1, 0x2000)]) (fun t => t.regs.r0) = some (.fault (.permission 0x2000 .read 0 1 .sect) 0x1000, 0) := by decide

/-- V127: AP = 2 refuses a write without privilege. -/
theorem test_strt_unprivileged :
    stopped (sectionState 2 0xE4A10000 [(.r1, 0x2000)]) (fun t => t.regs.r0) = some (.fault (.permission 0x2000 .write 0 2 .sect) 0x1000, 0) := by decide

/-- V128. -/
theorem test_ldrt :
    seen (sectionState 2 0xE4B10000 [(.r1, 0x2000)]) (fun t => (t.regs.r0, t.regs.r1)) = some (0x11223344, 0x2000) := by decide

/-! ### Single steps: block transfers -/

/-- V130. -/
theorem test_stmia_back :
    seen (armed 0xE8A0000E [(.r0, 0x3000), (.r1, 1), (.r2, 2), (.r3, 3)]) (fun t => (wordAt 0x3000 t, wordAt 0x3004 t, wordAt 0x3008 t, t.regs.r0)) = some (1, 2, 3, 0x300C) := by decide

/-- V132. -/
theorem test_stmdb :
    seen (armed 0xE92D000E [(.r13_svc, 0x8000), (.r1, 1), (.r2, 2), (.r3, 3)]) (fun t => (wordAt 0x7FF4 t, wordAt 0x7FFC t, t.regs.r13_svc)) = some (1, 3, 0x7FF4) := by decide

/-- The data of the block vectors. -/
def blockData : List (Word × Word) := [(0x2000, 0x11111111), (0x2004, 0x22222222), (0x2008, 0x33333333)]

/-- V135. -/
theorem test_ldmda :
    seen (withWords blockData (armed 0xE810000E [(.r0, 0x2008)])) (fun t => (t.regs.r1, t.regs.r3)) = some (0x11111111, 0x33333333) := by decide

/-- V137. -/
theorem test_ldm_pc :
    seen (withWords blockData (armed 0xE8BD8010 [(.r13_svc, 0x2004)])) (fun t => (t.regs.r4, t.pc, t.regs.r13_svc)) = some (0x22222222, 0x33333330, 0x200C) := by decide

/-- V141. -/
theorem test_ldm_user :
    seen (withWords blockData (armed 0xE8D06000 [(.r0, 0x2000)])) (fun t => (t.regs.r13_usr, t.regs.r14_usr, t.regs.r13_svc)) = some (0x11111111, 0x22222222, 0) := by decide

/-- V143. -/
theorem test_ldm_return :
    seen (withWords blockData (armed 0xE8FD8000 [(.r13_svc, 0x2000)])) (fun t => (t.pc, t.cpsr, t.regs.r13_svc)) = some (0x11111110, 0x10, 0x2004) := by decide

/-- V144. -/
theorem test_stm_user :
    seen (armed 0xE8C06000 [(.r0, 0x3000), (.r13_usr, 0x1313), (.r14_usr, 0x1414)]) (fun t => (wordAt 0x3000 t, wordAt 0x3004 t)) = some (0x1313, 0x1414) := by decide

/-- V138. -/
theorem test_ldm_empty :
    stopped (armed 0xE8900000 []) (fun t => t.pc) = some (.refusal .unpredictable 0x1000, 0x1000) := by decide

/-! ### Single steps: CP15, exceptions, fetch and devices -/

/-- V146. -/
theorem test_mcr_control :
    seen (armed 0xEE010F10 [(.r0, 3)]) (fun t => t.cp15.control) = some 3 := by decide

/-- V147. -/
theorem test_mcr_big_endian :
    stopped (armed 0xEE010F10 [(.r0, 0x80)]) (fun t => t.cp15.control) = some (.refusal .bigEndianUnsupported 0x1000, 0) := by decide

/-- V145. -/
theorem test_mrc_control :
    seen (withControl 0x78 (armed 0xEE110F10 [])) (fun t => t.regs.r0) = some 0x78 := by decide

/-- V152. -/
theorem test_mrc_unhandled :
    stopped (armed 0xEE150F10 []) (fun t => t.pc) = some (.fault (.protocolViolation .coprocessorUnhandled) 0x1000, 0x1000) := by decide

/-- V164. -/
theorem test_swi :
    seen (inStatus 0x60000010 (armed 0xEF123456 [])) (fun t => (t.cpsr, t.spsr.svc, t.regs.r14_svc, t.pc)) = some (0x60000093, 0x60000010, 0x1004, 8) := by decide

/-- V166. -/
theorem test_bkpt_high_vectors :
    seen (withControl 0x2000 (armed 0xE1200070 [])) (fun t => (t.cpsr, t.spsr.abt, t.regs.r14_abt, t.pc)) = some (0xD7, 0xD3, 0x1004, 0xFFFF000C) := by decide

/-- V168. -/
theorem test_fetch_misaligned :
    stopped ({ armed 0xE1A00000 [] with pc := 0x1002 }) (fun t => t.pc) = some (.fault (.alignment 0x1002 4 .execute) 0x1002, 0x1002) := by decide

/-- V169. -/
theorem test_fetch_unmapped :
    stopped ({ armed 0xE1A00000 [] with cp15 := ⟨0, 0, 1, 0x4000, 0⟩ }) (fun t => t.pc) = some (.fault (.translation .sect 0x1000 .execute) 0x1000, 0x1000) := by decide

/-- V161: the condition comes before the table. -/
theorem test_undefined_skipped :
    seen (armed 0x07F000F0 []) (fun t => t.pc) = some 0x1004 := by decide

/-- V170. -/
theorem test_device_write :
    seen (withDevice (armed 0xE5810000 [(.r0, 0x41), (.r1, 0x10000000)])) (fun t => t.devLog) = some [.write 0 0 0x41] := by decide

/-- V171. -/
theorem test_device_byte :
    stopped (withDevice (armed 0xE5C10000 [(.r0, 0x41), (.r1, 0x10000000)])) (fun t => t.devLog) = some (.refusal .subWordPeripheral 0x1000, []) := by decide

/-- V173: the read is recorded, and its value is the device's. -/
theorem test_device_read :
    seen (withDevice (armed 0xE5910004 [(.r1, 0x10000000)])) (fun t => (t.devLog, t.draws)) = some ([.read 0 4], 1) := by decide

/-! ### Witnesses: for each statement of Obligations.lean with hypotheses, inputs that meet them all -/

/-- A placed word stands at the reset PC. -/
theorem armed_mem (w : Word) (rs : List (Cell × Word)) : (armed w rs).mem = Memory.store [] 0x1000 w .word := by
  have hw : BitVec.ofNat 32 (w.toNat % 2 ^ 32) = w := by
    apply BitVec.eq_of_toNat_eq
    have := w.isLt
    simp only [BitVec.toNat_ofNat]
    omega
  unfold armed State.withFetchWord placeWord
  rw [hw, show fetchAddr ({ State.reset with regs := rs.foldl (fun r p => r.set p.1 p.2) .zero } : State) = 0x1000
    from by simp [fetchAddr, Machine.translate, State.mmuOn, State.reset, State.resetWith, Launch.standard]]
  rfl

/-- A fetch of a placed word answers the word. -/
theorem fetch_armed (w : Word) (rs : List (Cell × Word)) : fetch (armed w rs) = .next (w, armed w rs) := by
  have hp : (armed w rs).pc = 0x1000 := rfl
  unfold fetch
  rw [memRead_memory (pa := 0x1000) (by rw [hp]; decide) (by
      rw [hp]
      unfold Machine.translate
      rw [if_neg (by simp [armed, State.withFetchWord, placeWord, State.mmuOn, State.reset, State.resetWith,
        Launch.standard])]) (by rfl), armed_mem, Memory.load_store_word Memory.wf_nil]

theorem wit_DecodeOfEncode : (Instr.swi .le 0xFFFFFF).wellFormed = true ∧ (Instr.bkpt .al 0).wellFormed = true := by
  decide

theorem wit_EncodeOfDecode : decode 0xE8FD8000 = .instr (.ldm3 .al false true true 13 0) := by decide

theorem wit_UndefinedSpaces : (0xE7F000F0 : Word).extractLsb' 28 4 ≠ 0b1111 ∧ UndefinedSpace 0xE7F000F0 ∧
    (0xE1A00000 : Word).extractLsb' 28 4 ≠ 0b1111 ∧ ¬UndefinedSpace 0xE1A00000 := by
  refine ⟨by decide, ?_, by decide, ?_⟩ <;> unfold UndefinedSpace <;> dsimp only <;> decide

theorem wit_StepRunsDecoded :
    (armed 0xE12FFF31 []).stop = .running ∧ fetch (armed 0xE12FFF31 []) = .next (0xE12FFF31, armed 0xE12FFF31 []) ∧
      decode 0xE12FFF31 = .instr (.blxReg .al 1) ∧
      implemented (armed 0xE12FFF31 []).params.extra (Instr.blxReg .al 1).cls = true :=
  ⟨rfl, fetch_armed _ _, by decide, rfl⟩

/-- At the last word of the address space, and under translation. -/
theorem wit_FetchReadsMemory :
    Reaches { State.reset with pc := 0xFFFFFFFC } 0xFFFFFFFC .word .execute true 0xFFFFFFFC ∧
      Reaches (sectionState 2 0xE1A00000 []) 0x1000 .word .execute true 0x1000 :=
  ⟨⟨rfl, rfl, rfl⟩, ⟨rfl, rfl, rfl⟩⟩

theorem wit_PlacedWordRuns :
    State.reset.stop = .running ∧ State.reset.mem.wf ∧ State.reset.mmuOn = false ∧
      misaligned State.reset.pc .word = false ∧ State.reset.deviceAt State.reset.pc = none ∧
      (Instr.bkpt .al 7).wellFormed = true ∧ implemented State.reset.params.extra (Instr.bkpt .al 7).cls = true := by
  decide

theorem wit_StoppedCoreUnchanged : (State.reset.stopRefusal .unpredictable).stop ≠ .running := by decide

/-- The parameters of a core with no class but the core one. -/
def bare : Params := ⟨⟨false, false, false, false, false, false, false, false, false⟩, []⟩

/-- One word for each clause: the reserved condition; a failing condition; no row; an absent class, with an instruction and
with a wrong should-be field; an implemented class with a wrong should-be field. -/
theorem wit_WordsThatStop :
    (∀ w : Word, (armed w []).stop = .running ∧ fetch (armed w []) = .next (w, armed w [])) ∧
      (0xF5D1F000 : Word).extractLsb' 28 4 = 0b1111 ∧
      (0x0A000001 : Word).extractLsb' 28 4 = Cond.eq.bits ∧ Cond.passes .eq (armed 0x0A000001 []).flags = false ∧
      (0xE7F000F0 : Word).extractLsb' 28 4 = Cond.al.bits ∧ decode 0xE7F000F0 = .noRow ∧
      decode 0xEF000000 = .instr (.swi .al 0) ∧ implemented bare.extra (Instr.swi .al 0).cls = false ∧
      decode 0xE12FFE31 = .shouldBeField .blxReg ∧ implemented bare.extra .blxReg = false ∧
      decode 0xE12FFE10 = .shouldBeField .core ∧ implemented bare.extra .core = true :=
  ⟨fun w => ⟨rfl, fetch_armed w []⟩, by decide⟩

theorem wit_FailedConditionSkips : Cond.passes (Instr.ldm3 .eq false true true 13 0).cond State.reset.flags = false := by
  decide

theorem wit_ConditionTable : Cond.ofBits 0b0000 = some .eq ∧ Cond.ofBits 0b1110 = some .al := by decide

theorem wit_BankingTable : (0 : Reg) ≠ 15 ∧ (14 : Reg) ≠ 15 ∧ Mode.usr.cell 14 = Mode.sys.cell 14 ∧
    Mode.usr.cell 14 ≠ Mode.svc.cell 14 ∧ Mode.usr.cell 15 = none := by decide

theorem wit_RegisterWriteRead : (0 : Reg) ≠ 15 ∧ (14 : Reg) ≠ 15 := by decide

theorem wit_DataProcessingResults : Cond.passes .al State.reset.flags = true ∧ (14 : Reg) ≠ 15 ∧
    (immRows State.reset .al true 15 14 ⟨15, 0xFF⟩).length = 12 ∧
    (rsiRows State.reset .al true 15 14 ⟨31, .ror, 15⟩).length = 12 := by decide

theorem wit_ShiftedByRegisterResults : Cond.passes .al State.reset.flags = true ∧ (14 : Reg) ≠ 15 ∧
    (⟨14, .ror, 14⟩ : RsrOp).rm ≠ 15 ∧ (⟨14, .ror, 14⟩ : RsrOp).rs ≠ 15 := by decide

theorem wit_CompareResults : Cond.passes .al State.reset.flags = true ∧ (14 : Reg) ≠ 15 ∧
    (⟨0, .lsl, 14⟩ : RsrOp).rm ≠ 15 ∧ (⟨0, .lsl, 14⟩ : RsrOp).rs ≠ 15 := by decide

theorem wit_PcResults : Cond.passes .al State.reset.flags = true ∧
    (immRows State.reset .al false 0 15 ⟨0, 0⟩).length = 12 := by decide

/-- A status value with T = 1 is not valid. -/
theorem thumb_invalid : ¬ValidStatus 0x30 := fun h => absurd h.1 (by decide)

/-- A status value whose M field names no mode is not valid. -/
theorem mode_invalid : ¬ValidStatus 0x14 := fun h => absurd ((statusValid_iff _).2 h) (by decide)

theorem usr_valid : ValidStatus 0x10 := ⟨by decide, .usr, rfl⟩

/-- Its three clauses: no SPSR in sys; an invalid one and a valid one in svc. -/
theorem wit_SpsrRestores : Cond.passes .al State.reset.flags = true ∧
    (inStatus 0x1F State.reset).mode.spsrCell = none ∧ Cond.passes .al (inStatus 0x1F State.reset).flags = true ∧
    State.reset.mode.spsrCell = some .svc ∧ ValidStatus (State.reset.spsr.get .svc) ∧
    ¬ValidStatus (({ State.reset with spsr := ⟨0x10, 0x10, 0x30, 0x10, 0x10⟩ } : State).spsr.get .svc) :=
  ⟨by decide, by decide, by decide, by decide, usr_valid, thumb_invalid⟩

theorem wit_RegisterRefusals : Cond.passes .al State.reset.flags = true ∧
    ((15 : Reg) = 15 ∨ (0 : Reg) = 15) ∧ ((0 : Reg) = 15 ∨ (1 : Reg) = 15 ∨ (2 : Reg) = 15 ∨ (2 : Reg) = 2) := by
  decide

theorem wit_ShifterTable : (⟨0, 0xFF⟩ : ImmOp).rot = 0 ∧ (⟨15, 0xFF⟩ : ImmOp).rot ≠ 0 ∧ (1 ≤ 1 ∧ 1 ≤ 31) ∧
    (1 ≤ 31 ∧ 31 ≤ 31) ∧ 32 < 33 ∧ 32 ≤ 32 ∧ 64 ≠ 0 ∧ 64 % 32 = 0 ∧ 33 % 32 ≠ 0 := by decide

theorem wit_ShiftsAreArithmetic : 1 ≤ 1 ∧ 1 ≤ 255 := by decide

theorem wit_CompareOrders : Cond.passes .al State.reset.flags = true ∧ (14 : Reg) ≠ 15 ∧ (⟨0, .lsl, 14⟩ : RsrOp).rm ≠ 15 ∧
    (⟨0, .lsl, 14⟩ : RsrOp).rs ≠ 15 := by decide

theorem wit_MultiplyResults : Cond.passes .al State.reset.flags = true ∧ (14 : Reg) ≠ 15 ∧ (0 : Reg) ≠ 15 ∧
    (14 : Reg) ≠ 0 := by decide

theorem wit_LongMultiplyResults : Cond.passes .al State.reset.flags = true ∧ (14 : Reg) ≠ 15 ∧ (13 : Reg) ≠ 15 ∧
    (0 : Reg) ≠ 15 ∧ (1 : Reg) ≠ 15 ∧ (14 : Reg) ≠ 13 ∧ (14 : Reg) ≠ 1 ∧ (13 : Reg) ≠ 1 := by decide

/-- A zero, and a highest set bit at 31 and at 0. -/
theorem wit_ClzResult : Cond.passes .al State.reset.flags = true ∧ (0 : Reg) ≠ 15 ∧ State.reset.readReg 1 = 0 ∧
    ((armed 0 [(.r1, 0x80000000)]).readReg 1).getLsbD 31 = true ∧
    (∀ j, 31 < j → ((armed 0 [(.r1, 0x80000000)]).readReg 1).getLsbD j = false) ∧
    ((armed 0 [(.r1, 1)]).readReg 1).getLsbD 0 = true ∧
    (∀ j, 0 < j → ((armed 0 [(.r1, 1)]).readReg 1).getLsbD j = false) := by
  have h1 : (armed 0 [(.r1, 1)]).readReg 1 = 1 := by decide
  refine ⟨by decide, by decide, by decide, by decide, fun j hj => BitVec.getLsbD_of_ge _ _ hj, by decide, fun j hj => ?_⟩
  rw [h1]
  simp [show j ≠ 0 by omega]

theorem wit_MrsReads : Cond.passes .al State.reset.flags = true ∧ (14 : Reg) ≠ 15 ∧
    State.reset.mode.spsrCell = some .svc ∧ (inStatus 0x10 State.reset).mode.spsrCell = none ∧
    Cond.passes .al (inStatus 0x10 State.reset).flags = true := by decide

/-- No reserved bit is written, bit by bit. -/
theorem not_writesReserved {mask : BitVec 4} {op : Word}
    (h : ∀ k, k < 28 → 8 ≤ k → ¬(mask.getLsbD (k / 8) = true ∧ op.getLsbD k = true)) : ¬WritesReserved mask op :=
  fun ⟨k, h8, h28, hs, ho⟩ => h k h28 h8 ⟨hs, ho⟩

/-- MSR CPSR_f, #0xF0000000 after reset, and MSR CPSR_fsxc, r0 with r0 = 0x1F. -/
theorem wit_MsrWritesCpsr : Cond.passes .al State.reset.flags = true ∧ (0 : Reg) ≠ 15 ∧
    (State.reset.mode = .usr → (8 : BitVec 4).getLsbD 0 = false) ∧
    (Instr.msrImm .al false 8 ⟨2, 0x0F⟩, 0xF0000000#32) ∈ msrForms State.reset .al false 8 ⟨2, 0x0F⟩ 0 ∧
    ¬WritesReserved 8 0xF0000000 ∧ Merges State.reset.cpsr 0xF0000000 8 0xF00000D3 ∧ ValidStatus 0xF00000D3 ∧
    (Instr.msrReg .al false 15 0, 0x1F#32) ∈ msrForms (armed 0 [(.r0, 0x1F)]) .al false 15 ⟨0, 0⟩ 0 ∧
    ¬WritesReserved 15 0x1F ∧ Merges State.reset.cpsr 0x1F 15 0x1F ∧ ValidStatus 0x1F := by
  refine ⟨by decide, by decide, by decide, by decide, not_writesReserved (by decide), ?_, ⟨by decide, .svc, rfl⟩,
    by decide, not_writesReserved (by decide), ?_, ⟨by decide, .sys, rfl⟩⟩ <;> unfold Merges Selected <;> decide

/-- A held SPSR that is no valid status, and a field mask of 0: nothing is written, so the hypotheses are met too. -/
def invalidSpsr : State := { State.reset with spsr := ⟨0x10, 0x10, 0, 0x10, 0x10⟩ }

theorem wit_MsrWritesSpsr : Cond.passes .al State.reset.flags = true ∧ (0 : Reg) ≠ 15 ∧
    State.reset.mode.spsrCell = some .svc ∧
    (Instr.msrReg .al true 15 0, 0x600000D3#32) ∈ msrForms (armed 0 [(.r0, 0x600000D3)]) .al true 15 ⟨0, 0⟩ 0 ∧
    ¬WritesReserved 15 0x600000D3 ∧ Merges (State.reset.spsr.get .svc) 0x600000D3 15 0x600000D3 ∧
    ValidStatus 0x600000D3 ∧ invalidSpsr.mode.spsrCell = some .svc ∧ ¬WritesReserved 0 0 ∧
    Merges (invalidSpsr.spsr.get .svc) 0 0 (invalidSpsr.spsr.get .svc) := by
  refine ⟨by decide, by decide, by decide, by decide, not_writesReserved (by decide), ?_, ⟨by decide, .svc, rfl⟩,
    by decide, not_writesReserved (by decide), ?_⟩ <;> unfold Merges Selected <;> decide

/-- MSR SPSR_, r0 with field_mask = 0 runs whatever the SPSR holds (log 15). -/
theorem test_msr_spsr_no_field : seen ({ armed 0xE160F000 [] with spsr := invalidSpsr.spsr } : State)
    (fun t => (t.spsr.svc, t.pc)) = some (0, 0x1004) := by decide

/-- One input for each of the clauses: no SPSR in usr; bit 8 written; Rm = 15; the control byte in usr; T = 1 into CPSR and an
invalid mode into the SPSR. -/
theorem wit_MsrStops : Cond.passes .al State.reset.flags = true ∧
    (inStatus 0x10 State.reset).mode.spsrCell = none ∧ Cond.passes .al (inStatus 0x10 State.reset).flags = true ∧
    State.reset.mode.spsrCell ≠ none ∧ WritesReserved 2 0x100 ∧ WritesReserved 8 0x08000000 ∧
    ¬WritesReserved 8 (State.reset.readReg 15) ∧ (0 : Reg) ≠ 15 ∧
    (inStatus 0x10 State.reset).mode = .usr ∧ (1 : BitVec 4).getLsbD 0 = true ∧ ¬WritesReserved 1 0xD3 ∧
    ¬(State.reset.mode = .usr ∧ (1 : BitVec 4).getLsbD 0 = true) ∧ ¬WritesReserved 1 0x30 ∧
    Merges State.reset.cpsr 0x30 1 0x30 ∧ ¬ValidStatus 0x30 ∧
    (1 : BitVec 4) ≠ 0 ∧ State.reset.mode.spsrCell = some .svc ∧ ¬WritesReserved 1 0x14 ∧
    Merges (State.reset.spsr.get .svc) 0x14 1 0x14 ∧ ¬ValidStatus 0x14 := by
  refine ⟨by decide, by decide, by decide, by decide, ⟨8, by decide, by decide, rfl, by decide⟩,
    ⟨27, by decide, by decide, rfl, by decide⟩, not_writesReserved (by decide), by decide, by decide, by decide,
    not_writesReserved (by decide), by decide, not_writesReserved (by decide), ?_, thumb_invalid, by decide, by decide,
    not_writesReserved (by decide), ?_, mode_invalid⟩ <;> unfold Merges Selected <;> decide

theorem wit_BranchResults : Cond.passes .al State.reset.flags = true := by decide

theorem wit_ExchangeResults : Cond.passes .al State.reset.flags = true ∧
    (State.reset.readReg 0).getLsbD 0 = false ∧ ((armed 0 [(.r0, 0x2001)]).readReg 0).getLsbD 0 = true ∧
    (0 : Reg) ≠ 15 := by decide

/-! #### Single transfers: every form at one address, with and without translation -/

/-- The state of the transfer witnesses: r1 points at the data, r2 is 0, the MMU maps section 0 for all. -/
def transferState : State := sectionState 3 0 [(.r1, 0x2000)]

theorem wit_WordLoadResults : Cond.passes .al transferState.flags = true ∧
    (∀ x ∈ wordLoads transferState .al true true 1 14 0 ⟨31, .lsl, 2⟩, x.refused = false ∧
      Reaches transferState (x.wordVa transferState) .word .read x.priv 0x2000) ∧
    (∀ x ∈ wordLoads (armed 0 [(.r1, 0x2003)]) .al true true 1 0 0 ⟨0, .lsl, 2⟩, x.refused = false ∧
      Reaches (armed 0 [(.r1, 0x2003)]) (x.wordVa (armed 0 [(.r1, 0x2003)])) .word .read x.priv 0x2000) := by
  refine ⟨by decide, ?_, ?_⟩ <;> intro x hx <;>
    simp only [wordLoads, mode2, List.mem_cons, List.not_mem_nil, or_false] at hx <;>
    rcases hx with rfl | rfl | rfl | rfl | rfl | rfl <;> exact ⟨rfl, rfl, rfl, rfl⟩

theorem wit_NarrowLoadResults : Cond.passes .al transferState.flags = true ∧
    (∀ x ∈ byteLoads transferState .al true true 1 14 0 ⟨31, .lsl, 2⟩ ++ halfLoads transferState .al true false true 1 14 0 2,
      x.refused = false ∧ Reaches transferState x.addr x.width .read x.priv 0x2000) ∧
    (∀ x ∈ halfLoads transferState .al false true false 1 0 0 2,
      x.refused = false ∧ Reaches transferState x.addr x.width .read x.priv 0x2000) := by
  refine ⟨by decide, ?_, ?_⟩ <;> intro x hx <;>
    simp only [byteLoads, halfLoads, mode2, mode3, List.cons_append, List.nil_append, List.mem_cons, List.not_mem_nil,
      or_false] at hx
  · rcases hx with rfl | rfl | rfl | rfl | rfl | rfl | rfl | rfl | rfl | rfl | rfl | rfl <;> exact ⟨rfl, rfl, rfl, rfl⟩
  · rcases hx with rfl | rfl | rfl | rfl | rfl | rfl <;> exact ⟨rfl, rfl, rfl, rfl⟩

theorem wit_WordStoreResults : transferState.mem.wf ∧ Cond.passes .al transferState.flags = true ∧
    (∀ x ∈ wordStores transferState .al true true 1 15 0 ⟨31, .lsl, 2⟩, x.refused = false ∧
      Reaches transferState x.addr .word .write x.priv 0x2000) := by
  refine ⟨by decide, by decide, ?_⟩
  intro x hx
  simp only [wordStores, mode2, List.mem_cons, List.not_mem_nil, or_false] at hx
  rcases hx with rfl | rfl | rfl | rfl | rfl | rfl <;> exact ⟨rfl, rfl, rfl, rfl⟩

theorem wit_NarrowStoreResults : transferState.mem.wf ∧ Cond.passes .al transferState.flags = true ∧
    (∀ x ∈ byteStores transferState .al true true 1 14 0 ⟨31, .lsl, 2⟩ ++
        halfStores transferState .al true false true 1 14 0 2,
      x.refused = false ∧ Reaches transferState x.addr x.width .write x.priv 0x2000) := by
  refine ⟨by decide, by decide, ?_⟩
  intro x hx
  simp only [byteStores, halfStores, mode2, mode3, List.cons_append, List.nil_append, List.mem_cons, List.not_mem_nil,
    or_false] at hx
  rcases hx with rfl | rfl | rfl | rfl | rfl | rfl | rfl | rfl <;> exact ⟨rfl, rfl, rfl, rfl⟩

/-- Write-back into r15 is refused of every form with write-back, and the swaps refuse r15. -/
theorem wit_TransferRefusals : Cond.passes .al State.reset.flags = true ∧
    (wordLoads State.reset .al true true 15 0 0 ⟨0, .lsl, 2⟩).all (·.refused) = true ∧
    (halfStores State.reset .al false true false 2 2 0 3).all (·.refused) = true ∧
    ((15 : Reg) = 15 ∨ (0 : Reg) = 15 ∨ (1 : Reg) = 15 ∨ (1 : Reg) = 0 ∨ (1 : Reg) = 15) := by decide

/-- A misaligned word load with Control.U = 1, a misaligned store, an access without permission, one that AP = 0 with
S = R = 1 refuses, and a rotated load of an unmapped word. -/
theorem wit_AccessFaultsKeepWriteBack :
    Cond.passes .al State.reset.flags = true ∧
    (∃ x ∈ wordLoads (withControl 0x00400000 (armed 0 [(.r1, 0x2001)])) .al true true 1 0 0 ⟨0, .lsl, 2⟩,
      x.refused = false ∧ x.addr.toNat % x.width.bytes ≠ 0 ∧
      (withControl 0x00400000 (armed 0 [(.r1, 0x2001)])).cp15.control.getLsbD 22 = true) ∧
    (∃ x ∈ halfStores (armed 0 [(.r1, 0x2001)]) .al true true true 1 0 0 2,
      x.refused = false ∧ x.addr.toNat % x.width.bytes ≠ 0) ∧
    (∃ x ∈ wordStores (sectionState 2 0 [(.r1, 0x2000)]) .al true true 1 0 0 ⟨0, .lsl, 2⟩,
      x.refused = false ∧ x.addr.toNat % x.width.bytes = 0 ∧
      ∃ f, translate x.addr .write x.priv (x.backState (sectionState 2 0 [(.r1, 0x2000)]) 1) = .fault f) ∧
    (∃ x ∈ byteLoads (withControl 0x301 (sectionState 0 0 [(.r1, 0x2000)])) .al true true 1 0 0 ⟨0, .lsl, 2⟩,
      x.refused = false ∧ x.addr.toNat % x.width.bytes = 0 ∧
      ∃ q, translate x.addr .read x.priv (x.backState (withControl 0x301 (sectionState 0 0 [(.r1, 0x2000)])) 1) =
        .refused q) ∧
    (∃ x ∈ wordLoads (sectionState 3 0 [(.r1, 0x00200001)]) .al true true 1 0 0 ⟨0, .lsl, 2⟩,
      x.refused = false ∧ misaligned (x.wordVa (sectionState 3 0 [(.r1, 0x00200001)])) .word = false ∧
      ∃ f, translate (x.wordVa (sectionState 3 0 [(.r1, 0x00200001)])) .read x.priv
        (x.backState (sectionState 3 0 [(.r1, 0x00200001)]) 1) = .fault f) := by
  refine ⟨by decide, ?_, ?_, ?_, ?_, ?_⟩
  · exact ⟨_, List.mem_cons_self, rfl, by decide, by decide⟩
  · exact ⟨_, List.mem_cons_self, rfl, by decide⟩
  · exact ⟨_, List.mem_cons_of_mem _ (List.mem_cons_of_mem _ List.mem_cons_self), rfl, by decide, _, rfl⟩
  · exact ⟨_, List.mem_cons_self, rfl, by decide, _, rfl⟩
  · exact ⟨_, List.mem_cons_self, rfl, by decide, _, rfl⟩

/-- The last word of the device's range, and a byte of it. -/
theorem wit_DeviceTransfers :
    Cond.passes .al State.reset.flags = true ∧
    (∀ x ∈ wordLoads (withDevice (armed 0 [(.r1, 0x10000FFC)])) .al true true 1 0 0 ⟨0, .lsl, 2⟩, x.refused = false ∧
      ReachesDevice (withDevice (armed 0 [(.r1, 0x10000FFC)])) (x.wordVa (withDevice (armed 0 [(.r1, 0x10000FFC)]))) .word
        .read x.priv 0x10000FFC 0 ⟨0x10000000, 0x10000FFF⟩) ∧
    (∀ x ∈ byteStores (withDevice (armed 0 [(.r1, 0x10000FFF)])) .al true true 1 0 0 ⟨0, .lsl, 2⟩, x.refused = false ∧
      ReachesDevice (withDevice (armed 0 [(.r1, 0x10000FFF)])) x.addr x.width .write x.priv 0x10000FFF 0
        ⟨0x10000000, 0x10000FFF⟩) := by
  refine ⟨by decide, ?_, ?_⟩ <;> intro x hx <;>
    simp only [wordLoads, byteStores, mode2, List.mem_cons, List.not_mem_nil, or_false] at hx <;>
    rcases hx with rfl | rfl | rfl | rfl | rfl | rfl <;> exact ⟨rfl, rfl, rfl, rfl⟩

/-- An aligned swap under translation, and a misaligned one. -/
theorem wit_SwapResults : transferState.mem.wf ∧ Cond.passes .al transferState.flags = true ∧ (0 : Reg) ≠ 15 ∧
    (2 : Reg) ≠ 15 ∧ (1 : Reg) ≠ 15 ∧ (1 : Reg) ≠ 2 ∧ (1 : Reg) ≠ 0 ∧
    Reaches transferState (transferState.readReg 1) .word .read transferState.privileged 0x2000 ∧
    Reaches transferState (transferState.readReg 1) .word .write transferState.privileged 0x2000 ∧
    Reaches transferState (transferState.readReg 1) .byte .read transferState.privileged 0x2000 ∧
    Reaches transferState (transferState.readReg 1) .byte .write transferState.privileged 0x2000 ∧
    ((armed 0 [(.r1, 0x2002)]).readReg 1).toNat % 4 ≠ 0 :=
  ⟨by decide, by decide, by decide, by decide, by decide, by decide, by decide, ⟨rfl, rfl, rfl⟩, ⟨rfl, rfl, rfl⟩,
    ⟨rfl, rfl, rfl⟩, ⟨rfl, rfl, rfl⟩, by decide⟩

/-! #### Block transfers, with the MMU off -/

/-- The list r0, r14 and r15. -/
theorem wit_BlockAddresses : (0xC001 : BitVec 16).getLsbD (0 : Reg).val = true ∧
    (∀ j : Reg, (0xC001 : BitVec 16).getLsbD j.val = true → 0 ≤ j) ∧ (0xC001 : BitVec 16).getLsbD (15 : Reg).val = true ∧
    (∀ j : Reg, (0xC001 : BitVec 16).getLsbD j.val = true → j ≤ 15) := by decide

/-- The block state: r1 is the base. -/
def blockState : State := armed 0 [(.r1, 0x3000)]

theorem block_reaches (p u : Bool) (list : BitVec 16) (acc : Access)
    (h : ∀ i : Reg, list.getLsbD i.val = true → misaligned (slot blockState p u 1 list i) .word = false) :
    BlockReaches blockState p u 1 list acc (slot blockState p u 1 list) := fun i hi => ⟨h i hi, rfl, rfl⟩

theorem wit_LoadMultipleResults : Cond.passes .al blockState.flags = true ∧ blockBad true 1 0xC005 = false ∧
    BlockReaches blockState true false 1 0xC005 .read (slot blockState true false 1 0xC005) ∧
    blockBad false 1 ((0x7FFF : BitVec 15).setWidth 16) = false ∧ blockState.mode ≠ .usr ∧ blockState.mode ≠ .sys ∧
    BlockReaches blockState false true 1 ((0x7FFF : BitVec 15).setWidth 16) .read
      (slot blockState false true 1 ((0x7FFF : BitVec 15).setWidth 16)) :=
  ⟨by decide, by decide, block_reaches _ _ _ _ (by decide), by decide, by decide, by decide,
    block_reaches _ _ _ _ (by decide)⟩

theorem wit_LoadMultipleReturns : Cond.passes .al blockState.flags = true ∧
    (inStatus 0x1F blockState).mode.spsrCell = none ∧ blockState.mode.spsrCell = some .svc ∧
    ValidStatus (blockState.spsr.get .svc) ∧
    ¬ValidStatus (({ blockState with spsr := ⟨0x10, 0x10, 0x14, 0x10, 0x10⟩ } : State).spsr.get .svc) ∧
    blockBad true 1 ((2 : BitVec 15).setWidth 16 ||| 0x8000#16) = true ∧
    blockBad true 1 ((0 : BitVec 15).setWidth 16 ||| 0x8000#16) = false ∧
    BlockReaches blockState false true 1 ((0 : BitVec 15).setWidth 16 ||| 0x8000#16) .read
      (slot blockState false true 1 ((0 : BitVec 15).setWidth 16 ||| 0x8000#16)) :=
  ⟨by decide, by decide, by decide, usr_valid, mode_invalid, by decide, by decide, block_reaches _ _ _ _ (by decide)⟩

theorem wit_StoreMultipleResults : blockState.mem.wf ∧ Cond.passes .al blockState.flags = true ∧
    blockBad true 1 0xFFFD = false ∧
    BlockReaches blockState true false 1 0xFFFD .write (slot blockState true false 1 0xFFFD) ∧
    BlockStable blockState true false 1 0xFFFD (slot blockState true false 1 0xFFFD) ∧
    blockState.mode ≠ .usr ∧ blockState.mode ≠ .sys := by
  refine ⟨by decide, by decide, by decide, block_reaches _ _ _ _ (by decide), ?_, by decide, by decide⟩
  intro m _ i _
  unfold Machine.translate
  rw [if_neg (by rw [show State.mmuOn { blockState with mem := m } = blockState.mmuOn from rfl]; decide)]

/-- The refusals, and a misaligned start in each form with its checks passed. -/
theorem wit_BlockStops : Cond.passes .al State.reset.flags = true ∧ blockBad false 1 0 = true ∧
    blockBad true 1 2 = true ∧ blockBad false 15 1 = true ∧ (inStatus 0x10 State.reset).mode = .usr ∧
    Cond.passes .al (inStatus 0x10 State.reset).flags = true ∧ ((armed 0 [(.r1, 0x2003)]).readReg 1).toNat % 4 ≠ 0 ∧
    (∀ x ∈ blockLoads (armed 0 [(.r1, 0x2003)]) .al false true false 1 0x001C 0x001C,
      x.ready ∧ blockBad false 1 x.list = false) ∧
    (∀ x ∈ blockStores (armed 0 [(.r1, 0x2003)]) .al false true false 1 0x001C,
      x.ready ∧ blockBad false 1 x.list = false) := by
  refine ⟨by decide, by decide, by decide, by decide, by decide, by decide, by decide, ?_, ?_⟩ <;> intro x hx <;>
    simp only [blockLoads, blockStores, List.mem_cons, List.not_mem_nil, or_false] at hx
  · rcases hx with rfl | rfl | rfl
    · exact ⟨trivial, by decide⟩
    · exact ⟨⟨rfl, by decide, by decide⟩, by decide⟩
    · exact ⟨⟨.svc, by decide, usr_valid⟩, by decide⟩
  · rcases hx with rfl | rfl
    · exact ⟨trivial, by decide⟩
    · exact ⟨⟨rfl, by decide, by decide⟩, by decide⟩

/-- A block that runs out of section 0, the base 8 below its end: r2 and r3 lie in it, r4 beyond. `next` is the
descriptor of section 1. -/
def partState (next : Word) : State :=
  withControl 0x301 (withWords [(0x4004, next)] (sectionState 3 0xE8A1001C [(.r1, 0x000FFFF8), (.r2, 0x22), (.r3, 0x33)]))

/-- The addresses of the block. -/
def partSlot (i : Reg) : Word := slot (partState 0) false true 1 0x001C i

theorem before_r4 {i : Reg} (h : Before 0x001C 4 i) : i = 2 ∨ i = 3 := by
  have : ∀ i : Reg, (0x001C : BitVec 16).getLsbD i.val = true ∧ i < 4 → i = 2 ∨ i = 3 := by decide
  exact this i h

/-- The words the block stores lie above the tables, which stay as they are. -/
theorem part_table {next : Word} {m : Memory} (q : Word) (hq : q.toNat < 0x8000)
    (h : SameBytesBut (StoredBefore 0x001C 4 partSlot) (partState next) { partState next with mem := m }) :
    m.load q .word = (partState next).mem.load q .word := by
  refine Memory.load_congr q .word fun a ⟨j, hj, ha⟩ => h a ?_
  rintro ⟨i, hi, k, hk, rfl⟩
  have high : 0x000FFFF8 ≤ (partSlot i + BitVec.ofNat 32 k).toNat := by
    have h2 : ∀ k, k < 4 → 0x000FFFF8 ≤ ((0x000FFFF8 : Word) + BitVec.ofNat 32 k).toNat ∧
        0x000FFFF8 ≤ ((0x000FFFFC : Word) + BitVec.ofNat 32 k).toNat := by decide
    rcases before_r4 hi with rfl | rfl
    · exact (h2 k hk).1
    · exact (h2 k hk).2
  simp only [Width.bytes] at hj
  rw [ha, BitVec.toNat_add, BitVec.toNat_ofNat] at high
  omega

/-- So each address of the block translates as it did, or stops for the same cause. -/
theorem part_agree {next : Word} {m : Memory} (va l1 : Word)
    (h : SameBytesBut (StoredBefore 0x001C 4 partSlot) (partState next) { partState next with mem := m })
    (h1 : (partState next).mem.load (firstAddr 0x4000 va) .word = l1) (q1 : (firstAddr 0x4000 va).toNat < 0x8000)
    (q2 : (coarseAddr l1 va).toNat < 0x8000) (q3 : (fineAddr l1 va).toNat < 0x8000) :
    SameCause (partState next) { partState next with mem := m } (translate va .write true (partState next))
      (translate va .write true { partState next with mem := m }) := by
  subst h1
  have ht : (partState next).cp15.ttb = 0x4000 := rfl
  refine translate_agree_of_descriptors (s := partState next) (t := { partState next with mem := m }) rfl va .write true ?_ ?_
  · rw [ht]; exact part_table _ q1 h
  · rw [ht]
    intro q hq
    simp only [List.mem_cons, List.not_mem_nil, or_false] at hq
    rcases hq with rfl | rfl
    · exact part_table _ q2 h
    · exact part_table _ q3 h

/-- With a fault and with a refusal at r4: the words before it reach memory and r4's stops, in a load and in a store. -/
theorem wit_BlockStops_partway : Cond.passes .al (partState 0).flags = true ∧ (partState 0).mem.wf ∧
    (partState 0x00000002).mem.wf ∧ (0x001C : BitVec 16).getLsbD (4 : Reg).val = true ∧ blockBad true 1 0x001C = false ∧
    LoadsUpTo (partState 0) false true 1 0x001C 4 partSlot ∧
    LoadsUpTo (partState 0x00000002) false true 1 0x001C 4 partSlot ∧
    translate 0x00100000 .read true (partState 0) = raise (.translation .sect 0x00100000 .read) (partState 0) ∧
    translate 0x00100000 .read true (partState 0x00000002) = refuse .apSR11 (partState 0x00000002) := by
  refine ⟨by decide, by decide, by decide, by decide, by decide, ⟨fun i hi => ?_, by decide⟩, ⟨fun i hi => ?_, by decide⟩,
    rfl, rfl⟩ <;> rcases before_r4 hi with rfl | rfl <;> exact ⟨rfl, rfl, rfl⟩

/-- r2 and r3 lie in section 0, whatever the block has stored. -/
theorem part_stores (next : Word) (hn : next = 0 ∨ next = 0x00000002) :
    StoresUpTo (partState next) false true 1 0x001C 4 partSlot := by
  rcases hn with rfl | rfl <;> refine ⟨fun m h i hi => ?_, by decide⟩ <;> rcases before_r4 hi with rfl | rfl <;>
    exact ⟨rfl, (part_agree _ 0x00000C02 h (by decide) (by decide) (by decide) (by decide)).next rfl, rfl⟩

/-- The hypotheses of the stores: r2's and r3's reach memory whatever they store, and r4's stops, by a fault and by a
refusal. -/
theorem wit_BlockStops_stores :
    StoresUpTo (partState 0) false true 1 0x001C 4 partSlot ∧
    StoresUpTo (partState 0x00000002) false true 1 0x001C 4 partSlot ∧
    (∀ m : Memory, SameBytesBut (StoredBefore 0x001C 4 partSlot) (partState 0) { partState 0 with mem := m } →
      translate 0x00100000 .write true { partState 0 with mem := m } =
        raise (.translation .sect 0x00100000 .write) { partState 0 with mem := m }) ∧
    (∀ m : Memory,
      SameBytesBut (StoredBefore 0x001C 4 partSlot) (partState 0x00000002) { partState 0x00000002 with mem := m } →
      translate 0x00100000 .write true { partState 0x00000002 with mem := m } =
        refuse .apSR11 { partState 0x00000002 with mem := m }) := by
  exact ⟨part_stores 0 (.inl rfl), part_stores 0x00000002 (.inr rfl),
    fun m h => (part_agree _ 0 h (by decide) (by decide) (by decide) (by decide)).raise rfl,
    fun m h => (part_agree _ 0x00000002 h (by decide) (by decide) (by decide) (by decide)).refuse rfl⟩

/-- STMIA r1!, {r2, r3, r4} stops at r4: r2 and r3 are stored, r1 is not written back (R163, R291, R298). -/
theorem test_stm_partway : stopped (partState 0) (fun t => (t.mem.load 0x000FFFF8 .word, t.mem.load 0x000FFFFC .word,
    t.regs.r1)) = some (.fault (.translation .sect 0x00100000 .write) 0x1000, 0x22, 0x33, 0x000FFFF8) := by decide

/-! #### CP15, exceptions and translation -/

theorem wit_Cp15Transfers : Cond.passes .al State.reset.flags = true ∧ State.reset.mode ≠ .usr ∧ (14 : Reg) ≠ 15 ∧
    ((armed 0 [(.r0, 0xFFFFFF7F)]).readReg 0).getLsbD 7 = false := by decide

theorem wit_Cp15Stops : Cond.passes .al State.reset.flags = true ∧ (14 : BitVec 4) ≠ 15 ∧ (15 : BitVec 4) = 15 ∧
    (inStatus 0x10 State.reset).mode = .usr ∧ Cond.passes .al (inStatus 0x10 State.reset).flags = true ∧
    State.reset.mode ≠ .usr ∧ (0 : Reg) ≠ 15 ∧
    ¬(((0 : BitVec 4) = 1 ∨ (0 : BitVec 4) = 2 ∨ (0 : BitVec 4) = 3) ∧ (0 : BitVec 3) = 0) ∧ (0 : BitVec 4) ≠ 7 ∧
    (0 : BitVec 4) ≠ 8 ∧ ((armed 0 [(.r0, 0x80)]).readReg 0).getLsbD 7 = true := by decide

theorem wit_ExceptionEntries : Cond.passes .al State.reset.flags = true ∧
    Cond.passes .eq (inStatus 0x40000010 State.reset).flags = true := by decide

theorem wit_SwiReturns : statusValid State.reset.cpsr = true ∧ statusValid 0x60000010 = true := by decide

/-- The MMU off, and on. -/
theorem wit_TranslationResults :
    State.reset.cp15.control.getLsbD 0 = false ∧ transferState.cp15.control.getLsbD 0 = true := by decide

/-- The tables of 95_test_vectors.md's page walks, with the AP fields of the second setting. -/
def walkState : State :=
  { withWords [(0x4008, 0x00005021), (0x400C, 0x00006023), (0x500C, 0x00777272), (0x5040, 0x00880FF1),
      (0x6008, 0x00999C33)] State.reset with
    cp15 := { State.reset.cp15 with control := 1, ttb := 0x4000, dacr := 4 } }

/-- W6, W8, W2 and W3: a small page by its subpages, a large page and a tiny page. -/
theorem test_walks :
    translate 0x00203456 .read true walkState = .next 0x00777456 ∧
      translate 0x00203856 .read false walkState = .next 0x00777856 ∧
      translate 0x00210ABC .write false walkState = .next 0x00880ABC ∧
      translate 0x00300ABC .execute false walkState = .next 0x00999EBC :=
  ⟨rfl, rfl, rfl, rfl⟩

/-- W5, W9 and W4, and a domain without access. -/
theorem test_walk_stops :
    translate 0x00203456 .read false walkState = raise (.permission 0x00203456 .read 1 1 .page) walkState ∧
      translate 0x00203856 .write false walkState = raise (.permission 0x00203856 .write 1 2 .page) walkState ∧
      translate 0x00204000 .read true walkState = raise (.translation .page 0x00204000 .read) walkState ∧
      translate 0 .read true walkState = raise (.translation .sect 0 .read) walkState :=
  ⟨rfl, rfl, rfl, rfl⟩

/-- Each type of descriptor, and each kind of stop, occurs with the MMU on. -/
theorem wit_TranslationStops : walkState.cp15.control.getLsbD 0 = true ∧
    (firstDescriptor walkState 0).extractLsb' 0 2 = 0 ∧ (firstDescriptor transferState 0x2000).extractLsb' 0 2 = 2 ∧
    (firstDescriptor walkState 0x00203456).extractLsb' 0 2 = 1 ∧
    (firstDescriptor walkState 0x00300ABC).extractLsb' 0 2 = 3 ∧
    (secondDescriptor walkState 0x00204000).extractLsb' 0 2 = 0 ∧
    (secondDescriptor walkState 0x00210ABC).extractLsb' 0 2 = 1 ∧
    (secondDescriptor walkState 0x00203456).extractLsb' 0 2 = 2 ∧
    (secondDescriptor walkState 0x00300ABC).extractLsb' 0 2 = 3 ∧
    apTable 0 true true true = none ∧ apTable 1 false false false = some ⟨false, false⟩ ∧
    (Perm.allows ⟨false, false⟩ .read = false) := by decide

theorem wit_PermissionTable : ¬((0 : BitVec 2) = 0 ∧ true = true ∧ false = true) ∧
    ((0 : BitVec 2) = 0 ∧ true = true ∧ true = true) := by decide

theorem wit_TranslationLaws : translate 0x00203456 .read true walkState = .next 0x00777456 ∧
    (inStatus 0x10 walkState).mem = walkState.mem ∧ (inStatus 0x10 walkState).cp15 = walkState.cp15 := ⟨rfl, rfl, rfl⟩

theorem wit_MemoryLaws : transferState.mem.wf ∧ 2 ^ 32 - 1 < 2 ^ 32 ∧ 3 < Width.word.bytes ∧
    ¬InAccess 0xFFFFFFFF .half 1 ∧ InAccess 0xFFFFFFFF .half 0 := by
  refine ⟨by decide, by decide, by decide, ?_, ⟨1, by decide, by decide⟩⟩
  rintro ⟨k, hk, h⟩
  have : k = 0 ∨ k = 1 := by simp only [Width.bytes] at hk; omega
  rcases this with rfl | rfl <;> revert h <;> decide

/-! #### The whole machine -/

theorem test_reset_inv : State.reset.Inv := by decide

/-- A step that goes on, one that faults and one that is refused, each from a state with the invariant. -/
theorem wit_StepKeepsInv : State.reset.Inv ∧ (∃ t, step State.reset = .next t) ∧
    (armed 0xE7F000F0 []).Inv ∧ (∃ f, step (armed 0xE7F000F0 []) = .fault f) ∧
    (armed 0xE0000090 []).Inv ∧ (∃ q, step (armed 0xE0000090 []) = .refused q ∧ ∃ t, q.left = some t) :=
  ⟨by decide, ⟨_, rfl⟩, by decide, ⟨_, rfl⟩, by decide, ⟨_, rfl, _, rfl⟩⟩

theorem wit_ResetHasInv : Launch.standard.ok := by decide

/-- With HALT_PC at the entry point the host makes no tick, and no later visit is the end (R362). -/
theorem test_ends_at_once : EndsWell Launch.standard 0x1000 0 ∧ ¬EndsWell Launch.standard 0x1000 1 :=
  have h : EndsWell Launch.standard 0x1000 0 := ⟨_, ⟨rfl, fun k hk => absurd hk (Nat.not_lt_zero k)⟩, rfl, rfl⟩
  ⟨h, fun h1 => absurd (h.once h1) (by decide)⟩

/-- An instruction that changes each: the control byte, an SPSR, CP15 and memory. -/
theorem wit_OnlyTheseWrite :
    (∃ t, exec (.msrReg .al false 1 0) (armed 0 [(.r0, 0xD1)]) = .next t ∧
      t.cpsr.extractLsb' 0 8 ≠ (armed 0 [(.r0, 0xD1)]).cpsr.extractLsb' 0 8) ∧
    (∃ t, exec (.swi .al 0) State.reset = .next t ∧ t.spsr ≠ State.reset.spsr) ∧
    (∃ t, exec (.mcr .al 0 2 0 15 0 0) (armed 0 [(.r0, 0x4000)]) = .next t ∧
      t.cp15 ≠ (armed 0 [(.r0, 0x4000)]).cp15) ∧
    (∃ t, exec (.strImmPre .al true false 1 0 0) (armed 0 [(.r0, 1), (.r1, 0x2000)]) = .next t ∧
      t.mem ≠ (armed 0 [(.r0, 1), (.r1, 0x2000)]).mem) :=
  ⟨⟨_, rfl, by decide⟩, ⟨_, rfl, by decide⟩, ⟨_, rfl, by decide⟩, ⟨_, rfl, by decide⟩⟩

theorem wit_UserIsConfined : (inStatus 0x10 State.reset).mode = .usr ∧
    (∃ t, exec (.bl .al 1) (inStatus 0x10 State.reset) = .next t) ∧ entersException (.bl .al 1) = false ∧
    (∀ j : Reg, Mode.usr.cell j ≠ some .r13_svc) := ⟨by decide, ⟨_, rfl⟩, rfl, by decide⟩

theorem wit_StopsLeave : (armed 0xE7F000F0 []).stop = .running ∧ (∃ f, step (armed 0xE7F000F0 []) = .fault f) ∧
    (armed 0xE0000090 []).stop = .running ∧ (∃ q, step (armed 0xE0000090 []) = .refused q) :=
  ⟨rfl, ⟨_, rfl⟩, rfl, ⟨_, rfl⟩⟩

end Sys2Proof.Tests
end

section
/-! PROOFS. The C and V of R14 against exact arithmetic (00_scope.md R14, 41_data_processing.md R182). C accounts for
the 2^32 by which the unsigned result misses the exact one. The signed result is the exact one reduced to the signed
range, and V, read off the three sign bits, says that the reduction moved it. -/

namespace Sys2Proof.Machine

/-! ### The carry word and C -/

@[simp] theorem carryWord_toNat (c : Bool) : (carryWord c).toNat = c.toNat := by
  cases c <;> rfl

@[simp] theorem carryWord_toInt (c : Bool) : (carryWord c).toInt = c.toNat := by
  cases c <;> rfl

/-- The borrow of a carry in. -/
theorem toNat_not_cast (c : Bool) : ((!c).toNat : Int) = 1 - c.toNat := by
  cases c <;> rfl

/-- An addition is exact when C counts as 2^32. -/
theorem addResult_toNat_add_carry (a b : Word) (c : Bool) :
    (addResult a b c).value.toNat + (if (addResult a b c).carry then 2 ^ 32 else 0) = a.toNat + b.toNat + c.toNat := by
  have hc := Bool.toNat_le c
  simp only [addResult, carryAdd, decide_eq_true_eq, BitVec.toNat_add, carryWord_toNat]
  split <;> omega

/-- A subtraction is exact when a borrow, C = 0, counts as -2^32. -/
theorem subResult_toNat_sub_borrow (a b : Word) (c : Bool) :
    ((subResult a b c).value.toNat : Int) - (if (subResult a b c).carry then 0 else 2 ^ 32) =
      (a.toNat : Int) - b.toNat - (1 - c.toNat) := by
  have hc := toNat_not_cast c
  simp only [subResult, notBorrow, decide_eq_true_eq, BitVec.toNat_sub, carryWord_toNat]
  split <;> omega

/-! ### V -/

theorem addResult_toInt (a b : Word) (c : Bool) :
    (addResult a b c).value.toInt = (a.toInt + b.toInt + c.toNat).bmod (2 ^ 32) := by
  simp [addResult]

theorem subResult_toInt (a b : Word) (c : Bool) :
    (subResult a b c).value.toInt = (a.toInt - b.toInt - (1 - c.toNat)).bmod (2 ^ 32) := by
  simp [subResult, toNat_not_cast]

/-- Bit 31 is the sign. -/
theorem getLsbD_31_eq_decide_toInt_neg (a : Word) : a.getLsbD 31 = decide (a.toInt < 0) :=
  (BitVec.msb_eq_getLsbD_last a).symm.trans BitVec.msb_eq_toInt

/-- V of an addition in signs: the operands share one that the result lacks. -/
theorem overflowAdd_iff (a b r : Word) :
    overflowAdd a b r = true ↔ (a.toInt < 0 ↔ b.toInt < 0) ∧ ¬(a.toInt < 0 ↔ r.toInt < 0) := by
  simp only [overflowAdd, getLsbD_31_eq_decide_toInt_neg, Bool.and_eq_true, beq_iff_eq, bne_iff_ne, ne_eq,
    decide_eq_decide]

/-- V of a subtraction in signs: the operands differ, and the result lacks the first's. -/
theorem overflowSub_iff (a b r : Word) :
    overflowSub a b r = true ↔ ¬(a.toInt < 0 ↔ b.toInt < 0) ∧ ¬(a.toInt < 0 ↔ r.toInt < 0) := by
  simp only [overflowSub, getLsbD_31_eq_decide_toInt_neg, Bool.and_eq_true, bne_iff_ne, ne_eq, decide_eq_decide]

theorem toInt_bounds (a : Word) : -2 ^ 31 ≤ a.toInt ∧ a.toInt < 2 ^ 31 :=
  ⟨a.le_toInt, a.toInt_lt⟩

theorem addResult_overflow_iff (a b : Word) (c : Bool) :
    (addResult a b c).overflow = true ↔ (addResult a b c).value.toInt ≠ a.toInt + b.toInt + c.toNat := by
  have hV : (addResult a b c).overflow = overflowAdd a b (addResult a b c).value := rfl
  have hc := Bool.toNat_le c
  have ha := toInt_bounds a
  have hb := toInt_bounds b
  rw [hV, overflowAdd_iff, addResult_toInt, Int.bmod_def]
  split <;> omega

theorem subResult_overflow_iff (a b : Word) (c : Bool) :
    (subResult a b c).overflow = true ↔ (subResult a b c).value.toInt ≠ a.toInt - b.toInt - (1 - c.toNat) := by
  have hV : (subResult a b c).overflow = overflowSub a b (subResult a b c).value := rfl
  have hc := Bool.toNat_le c
  have ha := toInt_bounds a
  have hb := toInt_bounds b
  rw [hV, overflowSub_iff, subResult_toInt, Int.bmod_def]
  split <;> omega

/-- Settles O23: C by the exact unsigned equations, V by the signed value of the result. -/
theorem flagsAreExact : Obligations.FlagsAreExact := fun a b c =>
  ⟨addResult_toNat_add_carry a b c, addResult_overflow_iff a b c,
    subResult_toNat_sub_borrow a b c, subResult_overflow_iff a b c⟩

end Sys2Proof.Machine
end

section
/-! PROOFS. The register file and the state after reset (10_state.md R20 to R26, R48, 70_reset_and_hazards.md R360): which
register numbers share a cell, what a register reads after a write, and the reset of every launch. -/

namespace Sys2Proof.Machine

open Sys2Proof.Claims

/-! ### Banking -/

/-- r0 to r7 have one cell for all modes (10_state.md R23). -/
theorem Mode.cell_eq_of_lt_8 (m m' : Mode) {i : Reg} (h : i < 8) : m.cell i = m'.cell i := by
  revert i
  cases m <;> cases m' <;> decide

/-- fiq has r8 to r12 of its own, and the other modes share theirs. -/
theorem Mode.cell_eq_iff_fiq (m m' : Mode) {i : Reg} (h8 : 8 ≤ i) (h13 : i < 13) :
    m.cell i = m'.cell i ↔ (m = .fiq ↔ m' = .fiq) := by
  revert i
  cases m <;> cases m' <;> decide

/-- Each mode has r13 and r14 of its own, but usr and sys share theirs. -/
theorem Mode.cell_eq_iff_bankOf (m m' : Mode) {i : Reg} (h13 : 13 ≤ i) (h15 : i ≠ 15) :
    m.cell i = m'.cell i ↔ bankOf m = bankOf m' := by
  revert i
  cases m <;> cases m' <;> decide

/-- Two register numbers that share a cell are the same. -/
theorem Mode.eq_of_cell_eq {m m' : Mode} {i j : Reg} (hi : i ≠ 15) (h : m.cell i = m'.cell j) : i = j := by
  obtain ⟨c, hc⟩ := m.cell_isSome hi
  rw [← m.cell_number i c hc, ← m'.cell_number j c (h ▸ hc)]

/-- The banking table: register by register, whether two modes share its cell. -/
theorem Mode.cell_eq_iff (m m' : Mode) {i : Reg} (hi : i ≠ 15) :
    m.cell i = m'.cell i ↔ i < 8 ∨ (i < 13 ∧ (m = .fiq ↔ m' = .fiq)) ∨ (13 ≤ i ∧ bankOf m = bankOf m') := by
  by_cases h8 : i < 8
  · simp [h8, m.cell_eq_of_lt_8 m' h8]
  · by_cases h13 : i < 13
    · simp [h8, h13, m.cell_eq_iff_fiq m' (not_lt.1 h8) h13, not_le.2 h13]
    · simp [h8, h13, m.cell_eq_iff_bankOf m' (not_lt.1 h13) hi, not_lt.1 h13]

/-- Settles O13: numbers that share a cell are equal, and for one number the table decides. -/
theorem bankingTable : Obligations.BankingTable := by
  intro m m' i j
  refine ⟨m.cell_eq_none i, fun hi => ⟨fun h => ?_, ?_⟩⟩
  · obtain rfl := Mode.eq_of_cell_eq hi h
    exact ⟨rfl, (m.cell_eq_iff m' hi).1 h⟩
  · rintro ⟨rfl, h⟩
    exact (m.cell_eq_iff m' hi).2 h

/-! ### Reading after writing -/

/-- A register reads what was last written to its cell, through whichever mode, and else what it held. -/
theorem State.readAs_writeAs (s : State) (m m' : Mode) {i : Reg} (j : Reg) (hi : i ≠ 15) (v : Word) :
    (s.writeAs m i v).readAs m' j = if m'.cell j = m.cell i then v else s.readAs m' j := by
  obtain ⟨c, hc⟩ := m.cell_isSome hi
  rw [s.writeAs_of_cell hc, hc]
  cases hj : m'.cell j with
  | none => simp [State.readAs, hj]
  | some d => simp [State.readAs, hj, Regs.get_set]

/-- A write of r15 reaches no cell. -/
theorem State.readAs_setPc (s : State) (m : Mode) {j : Reg} (hj : j ≠ 15) (v : Word) :
    (s.setPc v).readAs m j = s.readAs m j := by
  obtain ⟨c, hc⟩ := m.cell_isSome hj
  rw [State.readAs_of_cell _ hc, State.readAs_of_cell _ hc, State.setPc_regs]

/-- Settles O14: a write of r15 is a write of the raw PC, any other write is one of its cell. -/
theorem registerWriteRead : Obligations.RegisterWriteRead := fun s m m' _ j v =>
  ⟨fun hi => s.readAs_writeAs m m' j hi v, rfl, rfl, fun hi => s.writeAs_pc m hi v, fun hj => s.readAs_setPc m' hj v⟩

/-! ### Reset -/

/-- A value with no bit of a mask has each of the mask's bits zero. -/
theorem getLsbD_eq_false_of_and {v mask : Word} (h : v &&& mask = 0) {k : Nat} (hk : mask.getLsbD k = true) :
    v.getLsbD k = false := by
  simpa [hk] using congrArg (fun w : Word => w.getLsbD k) h

/-- The status after reset: svc mode, T = 0, bits 27:8 zero (10_state.md R48). -/
theorem resetStatus_ok : ReservedZero 0x000000D3 ∧ statusValid 0x000000D3 = true := by decide

theorem Launch.ok.resetWith_inv {l : Launch} (h : l.ok) : (State.resetWith l).Inv := by
  obtain ⟨hmem, hcontrol, hspsr, -⟩ := h
  obtain ⟨hz, hv⟩ := resetStatus_ok
  exact ⟨hmem, hz, hv, hspsr, getLsbD_eq_false_of_and hcontrol (by decide)⟩

theorem Launch.ok.resetWith_mmuOn {l : Launch} (h : l.ok) : (State.resetWith l).mmuOn = false := by
  obtain ⟨-, hcontrol, -⟩ := h
  exact getLsbD_eq_false_of_and hcontrol (by decide)

theorem State.resetWith_mode (l : Launch) : (State.resetWith l).mode = .svc := by
  have h : Mode.ofBits (modeField 0x000000D3) = some .svc := by decide
  exact congrArg (Option.getD · .usr) h

/-- Settles O57: bits 0 and 7 of Control are among those a launch leaves zero; the rest is the definition of reset. -/
theorem resetHasInv : Obligations.ResetHasInv :=
  ⟨by decide, fun _ h => ⟨h.resetWith_inv, rfl, rfl, rfl, rfl, rfl, rfl, rfl, rfl, h.resetWith_mmuOn,
    State.resetWith_mode _⟩⟩

end Sys2Proof.Machine
end

section
/-! PROOFS. What an instruction that goes on may do, said once over all instructions (`Effect`, `ends_exec`); from it
the writers of each part of the state (10_state.md R30, R36 to R39, 43_status_register.md R235) and the invariant that
every step keeps (R21, R29, R31, R41). -/

namespace Sys2Proof.Machine

open Sys2Proof.Claims

/-! ### Status values that agree in bits 27:0 -/

section
variable {p q : Word} (h : p.extractLsb' 0 28 = q.extractLsb' 0 28)
include h

theorem getLsbD_congr_of_status {k : Nat} (hk : k < 28) : p.getLsbD k = q.getLsbD k := by
  simpa [BitVec.getLsbD_extractLsb', hk] using congrArg (fun v : BitVec 28 => v.getLsbD k) h

theorem extractLsb'_congr_of_status {n : Nat} (hn : n ≤ 28) : p.extractLsb' 0 n = q.extractLsb' 0 n := by
  apply BitVec.eq_of_getLsbD_eq
  intro k hk
  simp [hk, getLsbD_congr_of_status h (show k < 28 by omega)]

theorem reservedZero_congr_of_status (hq : ReservedZero q) : ReservedZero p := by
  rw [reservedZero_iff] at hq ⊢
  intro k h8 h28
  rw [getLsbD_congr_of_status h h28, hq k h8 h28]

theorem statusValid_congr_of_status : statusValid p = statusValid q := by
  simp only [statusValid, tBit, modeField, getLsbD_congr_of_status h (show 5 < 28 by decide),
    extractLsb'_congr_of_status h (show 5 ≤ 28 by decide)]

end

/-! ### The effects of instructions -/

/-- What instruction `i` may have done where it takes state `s` to `t`, and which instructions may do it. -/
inductive Effect (i : Instr) (s t : State) : Prop
  /-- Nothing that needs a privilege; only a store or a swap changes memory. -/
  | ordinary (h : Ordinary s t) (hm : t.mem ≠ s.mem → stores i = true)
  /-- The user-bank loads of LDM(2), outside usr mode (46_block_transfer.md R294). -/
  | userLoads (hu : s.mode ≠ .usr) (u : State) (h : Halfway s u) (hm : u.mem = s.mem) (ht : t = u.advance)
  /-- An SPSR restore (41_data_processing.md R183, 46_block_transfer.md R295). -/
  | restored (hi : restores i = true) (h : Returned s t)
  /-- MSR to CPSR, or with `r` to the SPSR (43_status_register.md R231). -/
  | status (r : Bool) (hc : writesCpsr i = !r) (hs : writesSpsr i = r) (h : MsrLeaves r s t)
  /-- Entry into an exception mode (60_exceptions.md R338). -/
  | entered (hi : entersException i = true) (m : Mode) (off : Word) (k : SpsrCell) (hk : m.spsrCell = some k)
      (ht : t = s.takeException m off)
  /-- MCR outside usr mode (47_coprocessor.md R312, R315). -/
  | cp15 (hi : movesToCp15 i = true) (hu : s.mode ≠ .usr) (c : Cp15) (ht : t = { s with cp15 := c }.advance)
      (hmain : c.mainId = s.cp15.mainId) (hcache : c.cacheType = s.cp15.cacheType)
      (hbig : s.cp15.control.getLsbD 7 = false → c.control.getLsbD 7 = false)

theorem OrdinaryRegs.effect {i : Instr} {s t : State} (h : OrdinaryRegs s t) : Effect i s t :=
  .ordinary h.1 fun hm => absurd h.2 hm

section
variable {i : Instr} {c : Cond} {s : State} {k : State → Out}

/-- An instruction under its condition: one that is skipped only advances the PC (40_dispatch.md R154). -/
theorem ends_effect_of_passed {P Q : State → Prop} (hk : Ends P Q (k s)) (hP : ∀ t, P t → Effect i s t)
    (hQ : ∀ t, Q t → Halfway s t) : Ends (Effect i s) (Halfway s) (whenPassed c s k) :=
  ends_whenPassed (ordinary_advance s).effect (hk.mono hP hQ)

theorem halfway_of_eq {s t : State} (h : t = s) : Halfway s t := h ▸ Halfway.refl s

/-- An instruction whose checks change nothing before it goes on. -/
theorem ends_effect_regs (hk : Ends (OrdinaryRegs s) (· = s) (k s)) :
    Ends (Effect i s) (Halfway s) (whenPassed c s k) :=
  ends_effect_of_passed hk (fun _ h => h.effect) fun _ => halfway_of_eq

/-- A load: a stop may come after its write-back. -/
theorem ends_effect_load (hk : Ends (OrdinaryRegs s) (Halfway s) (k s)) :
    Ends (Effect i s) (Halfway s) (whenPassed c s k) :=
  ends_effect_of_passed hk (fun _ h => h.effect) fun _ h => h

theorem ends_effect_store (hi : stores i = true) (hk : Ends (Ordinary s) (Halfway s) (k s)) :
    Ends (Effect i s) (Halfway s) (whenPassed c s k) :=
  ends_effect_of_passed hk (fun _ h => .ordinary h fun _ => hi) fun _ h => h

/-- A data-processing instruction that restores where S = 1 and Rd = 15. -/
theorem ends_effect_dp {f : Bool} {rd : Reg} (hi : restores i = (f && rd == 15))
    (hk : Ends (fun t => OrdinaryRegs s t ∨ (f = true ∧ rd = 15 ∧ Returned s t)) (· = s) (k s)) :
    Ends (Effect i s) (Halfway s) (whenPassed c s k) := by
  refine ends_effect_of_passed hk (fun t h => ?_) fun _ => halfway_of_eq
  rcases h with h | ⟨hf, hrd, h⟩
  · exact h.effect
  · exact .restored (by simp [hi, hf, hrd]) h

theorem ends_effect_msr {r : Bool} (hc : writesCpsr i = !r) (hs : writesSpsr i = r)
    (hk : Ends (MsrLeaves r s) (· = s) (k s)) : Ends (Effect i s) (Halfway s) (whenPassed c s k) :=
  ends_effect_of_passed hk (fun _ h => .status r hc hs h) fun _ => halfway_of_eq

end

/-! ### Refusals -/

/-- A check that refuses before the rest. -/
theorem ends_unlessRefused {P Q : State → Prop} {b : Bool} {q : RefusalReason} {s : State} {k : Out} (hs : Q s)
    (hk : b = false → Ends P Q k) : Ends P Q (if b then refuse q s else k) := by
  split
  · exact ends_refuse q hs
  · rename_i h
    exact hk (by simpa using h)

section
variable (s : State)

/-- The end of a data-processing instruction that does not write r15 is ordinary. -/
theorem ends_dpFinish_of_ne (f : Bool) {rd : Reg} (hrd : rd ≠ 15) (r : AluResult) :
    Ends (OrdinaryRegs s) (· = s) (dpFinish f rd r s) :=
  (ends_dpFinish ..).mono (fun _ h => h.resolve_right fun ⟨_, h15, _⟩ => hrd h15) fun _ h => h

/-- A register-specified shift refuses Rd = 15, so it never restores (41_data_processing.md R178). -/
theorem ends_dpRsr (alu : AluOp) (f : Bool) (rn rd : Reg) (op : RsrOp) :
    Ends (OrdinaryRegs s) (· = s) (dpRsr alu f rn rd op s) :=
  ends_unlessRefused rfl fun h => ends_dpFinish_of_ne s f (by simp_all) _

theorem ends_movRsr (alu : AluOp) (f : Bool) (rd : Reg) (op : RsrOp) :
    Ends (OrdinaryRegs s) (· = s) (movRsr alu f rd op s) :=
  ends_unlessRefused rfl fun h => ends_dpFinish_of_ne s f (by simp_all) _

theorem ends_cmpRsr (alu : AluOp) (rn : Reg) (op : RsrOp) : Ends (OrdinaryRegs s) (· = s) (cmpRsr alu rn op s) :=
  ends_unlessRefused rfl fun _ => ends_cmpFinish ..

/-! ### The instructions with an effect of their own -/

theorem ends_execMrs (i : Instr) (c : Cond) (r : Bool) (rd : Reg) :
    Ends (Effect i s) (Halfway s) (execMrs c r rd s) := by
  refine ends_effect_regs ?_
  split
  · split
    · exact ends_raise _ rfl
    · exact ends_mrsFinish ..
  · exact ends_mrsFinish ..

theorem ends_execMrc (i : Instr) (c : Cond) (op1 : BitVec 3) (crn : BitVec 4) (rd : Reg) (cp : BitVec 4)
    (op2 : BitVec 3) (crm : BitVec 4) : Ends (Effect i s) (Halfway s) (execMrc c op1 crn rd cp op2 crm s) := by
  refine ends_effect_regs (ends_withCp15 fun _ => ?_)
  split
  · exact ends_raise _ rfl
  · exact ends_next ((ordinary_writeReg ..).trans (ordinary_advance _))

theorem ends_execMcr {i : Instr} (hi : movesToCp15 i = true) (c : Cond) (op1 : BitVec 3) (crn : BitVec 4) (rd : Reg)
    (cp : BitVec 4) (op2 : BitVec 3) (crm : BitVec 4) :
    Ends (Effect i s) (Halfway s) (execMcr c op1 crn rd cp op2 crm s) := by
  refine ends_effect_of_passed (ends_withCp15 fun hu => ?_) (fun _ h => h) fun _ => halfway_of_eq
  refine (ends_writeCp15 ..).mono (fun t h => ?_) fun _ h => h
  obtain ⟨c, ht, hmain, hcache, hbig⟩ := h
  exact .cp15 hi hu c ht hmain hcache hbig

theorem ends_execSwi {i : Instr} (hi : entersException i = true) (c : Cond) (imm : BitVec 24) :
    Ends (Effect i s) (Halfway s) (execSwi c imm s) :=
  ends_effect_of_passed (ends_next (.entered hi .svc 0x08 .svc rfl rfl)) (fun _ h => h) fun _ h => h

theorem ends_execBkpt {i : Instr} (hi : entersException i = true) (c : Cond) (imm : BitVec 16) :
    Ends (Effect i s) (Halfway s) (execBkpt c imm s) :=
  ends_effect_of_passed
    (ends_unlessRefused (Halfway.refl s) fun _ => ends_next (.entered hi .abt 0x0C .abt rfl rfl)) (fun _ h => h)
    fun _ h => h

theorem ends_execLdm1 (i : Instr) (c : Cond) (p u w : Bool) (rn : Reg) (list : BitVec 16) :
    Ends (Effect i s) (Halfway s) (execLdm1 c p u w rn list s) := by
  refine ends_effect_load (ends_unlessRefused (Halfway.refl s) fun _ => ?_)
  refine ends_andThen (ends_loadMultiple ..) fun t ht => ends_next ?_
  unfold advanceUnlessLoaded
  split
  · exact ht
  · exact OrdinaryRegs.trans ht (ordinary_advance t)

/-- The list of LDM(2) names no r15. -/
theorem pc_notMem_userList (list : BitVec 15) : 15 ∉ listRegs (userList list) := by
  intro hm
  have h15 : (userList list).getLsbD 15 = true := (List.mem_filter.1 hm).2
  rw [userList, BitVec.getLsbD_append] at h15
  simp at h15

theorem ends_execLdm2 (i : Instr) (c : Cond) (p u w : Bool) (rn : Reg) (list : BitVec 15) :
    Ends (Effect i s) (Halfway s) (execLdm2 c p u w rn list s) := by
  refine ends_effect_of_passed (ends_unlessRefused (Halfway.refl s) fun h => ?_) (fun _ h => h) fun _ h => h
  have hu : s.mode ≠ .usr := by intro hm; simp [userBankRefused, hm] at h
  refine ends_andThen (ends_userLoads _ (pc_notMem_userList list) ..) fun t ht => ?_
  exact ends_next (.userLoads hu t ht.1 ht.2 rfl)

theorem ends_execLdm3 {i : Instr} (hi : restores i = true) (c : Cond) (p u w : Bool) (rn : Reg) (list : BitVec 15) :
    Ends (Effect i s) (Halfway s) (execLdm3 c p u w rn list s) := by
  refine ends_effect_of_passed (ends_withRestorable (Halfway.refl s) fun status hp hv => ?_) (fun _ h => h) fun _ h => h
  refine ends_unlessRefused (Halfway.refl s) fun _ => ends_andThen (ends_loadMultiple ..) fun t ht => ?_
  obtain ⟨ho, hm⟩ := ht
  exact ends_next (.restored hi ⟨⟨status, hp, hv, rfl⟩, ho.spsr, ho.cp15, ho.stop, ho.params, hm⟩)

theorem ends_execStm1 {i : Instr} (hi : stores i = true) (c : Cond) (p u w : Bool) (rn : Reg) (list : BitVec 16) :
    Ends (Effect i s) (Halfway s) (execStm1 c p u w rn list s) :=
  ends_effect_store hi (ends_unlessRefused (Halfway.refl s) fun _ => ends_storeMultiple ..)

theorem ends_execStm2 {i : Instr} (hi : stores i = true) (c : Cond) (p u w : Bool) (rn : Reg) (list : BitVec 16) :
    Ends (Effect i s) (Halfway s) (execStm2 c p u w rn list s) :=
  ends_effect_store hi (ends_unlessRefused (Halfway.refl s) fun _ => ends_storeMultiple ..)

end

/-- Every instruction has one of the effects, or stops with no control state changed. -/
theorem ends_exec (i : Instr) (s : State) : Ends (Effect i s) (Halfway s) (exec i s) := by
  have hh := Halfway.refl s
  unfold exec
  cases i with
  | andImm | eorImm | subImm | rsbImm | addImm | adcImm | sbcImm | rscImm | orrImm | bicImm | movImm | mvnImm
  | andRsi | eorRsi | subRsi | rsbRsi | addRsi | adcRsi | sbcRsi | rscRsi | orrRsi | bicRsi | movRsi | mvnRsi =>
    exact ends_effect_dp rfl (ends_dpFinish ..)
  | andRsr | eorRsr | subRsr | rsbRsr | addRsr | adcRsr | sbcRsr | rscRsr | orrRsr | bicRsr =>
    exact ends_effect_regs (ends_dpRsr ..)
  | movRsr | mvnRsr => exact ends_effect_regs (ends_movRsr ..)
  | tstImm | teqImm | cmpImm | cmnImm | tstRsi | teqRsi | cmpRsi | cmnRsi => exact ends_effect_regs (ends_cmpFinish ..)
  | tstRsr | teqRsr | cmpRsr | cmnRsr => exact ends_effect_regs (ends_cmpRsr ..)
  | mul | mla => exact ends_effect_regs (ends_unlessRefused rfl fun _ => ends_mulFinish ..)
  | umull | umlal | smull | smlal => exact ends_effect_regs (ends_mull ..)
  | clz =>
    exact ends_effect_regs (ends_unlessRefused rfl fun _ =>
      ends_next ((ordinary_writeReg ..).trans (ordinary_advance _)))
  | b => exact ends_effect_regs (ends_next (ordinary_setPc ..))
  | bl => exact ends_effect_regs (ends_next ((ordinary_writeReg ..).trans (ordinary_setPc ..)))
  | bx => exact ends_effect_regs (ends_branchExchange _ s ⟨Ordinary.refl s, rfl⟩)
  | blxReg =>
    exact ends_effect_regs (ends_unlessRefused rfl fun _ => ends_branchExchange _ s (ordinary_writeReg ..))
  | mrs => exact ends_execMrs ..
  | msrImm | msrReg => exact ends_effect_msr rfl rfl (ends_msr ..)
  | mrc => exact ends_execMrc ..
  | mcr => exact ends_execMcr s rfl ..
  | swi => exact ends_execSwi s rfl ..
  | bkpt => exact ends_execBkpt s rfl ..
  | swp | swpb => exact ends_effect_store rfl (ends_swap ..)
  | ldrImmPre | ldrImmPost => exact ends_effect_load (ends_ldrWord ..)
  | ldrRegPre | ldrRegPost => exact ends_effect_load (ends_unlessPcOffset hh (ends_ldrWord ..))
  | ldrtImm => exact ends_effect_load (ends_unlessPcLoad hh (ends_ldrWord ..))
  | ldrtReg => exact ends_effect_load (ends_unlessPcLoad hh (ends_unlessPcOffset hh (ends_ldrWord ..)))
  | ldrbImmPre | ldrbImmPost | ldrbtImm => exact ends_effect_load (ends_ldrNarrow ..)
  | ldrbRegPre | ldrbRegPost | ldrbtReg => exact ends_effect_load (ends_unlessPcOffset hh (ends_ldrNarrow ..))
  | ldrhImm | ldrsbImm | ldrshImm => exact ends_effect_load (ends_unlessHalfRefused hh (ends_ldrNarrow ..))
  | ldrhReg | ldrsbReg | ldrshReg =>
    exact ends_effect_load (ends_unlessHalfRefused hh (ends_unlessPcOffset hh (ends_ldrNarrow ..)))
  | strImmPre | strImmPost | strtImm => exact ends_effect_store rfl (ends_strWord ..)
  | strRegPre | strRegPost | strtReg => exact ends_effect_store rfl (ends_unlessPcOffset hh (ends_strWord ..))
  | strbImmPre | strbImmPost | strbtImm => exact ends_effect_store rfl (ends_strNarrow ..)
  | strbRegPre | strbRegPost | strbtReg => exact ends_effect_store rfl (ends_unlessPcOffset hh (ends_strNarrow ..))
  | strhImm => exact ends_effect_store rfl (ends_unlessHalfRefused hh (ends_strNarrow ..))
  | strhReg => exact ends_effect_store rfl (ends_unlessHalfRefused hh (ends_unlessPcOffset hh (ends_strNarrow ..)))
  | ldm1 => exact ends_execLdm1 ..
  | ldm2 => exact ends_execLdm2 ..
  | ldm3 => exact ends_execLdm3 s rfl ..
  | stm1 => exact ends_execStm1 s rfl ..
  | stm2 => exact ends_execStm2 s rfl ..

/-! ### Who writes what -/

namespace Effect
variable {i : Instr} {s t : State}

/-- The control byte of CPSR holds M, T, F and I (10_state.md R28). -/
theorem writer_of_control_ne (h : Effect i s t) (hne : t.cpsr.extractLsb' 0 8 ≠ s.cpsr.extractLsb' 0 8) :
    (writesCpsr i = true ∧ s.mode ≠ .usr) ∨ restores i = true ∨ entersException i = true := by
  cases h with
  | ordinary h => exact absurd (extractLsb'_congr_of_status h.status (by decide)) hne
  | userLoads _ _ h _ ht => exact absurd (by simp [ht, h.cpsr]) hne
  | restored hi => exact .inr (.inl hi)
  | status r hc _ h =>
    cases r with
    | false =>
      obtain ⟨-, -, husr, -⟩ := h.cpsr rfl
      exact .inl ⟨hc, fun hu => hne (husr hu)⟩
    | true =>
      obtain ⟨hcpsr, -⟩ := h.spsr rfl
      exact absurd (by rw [hcpsr]) hne
  | entered hi => exact .inr (.inr hi)
  | cp15 _ _ _ ht => exact absurd (by simp [ht]) hne

theorem writer_of_spsr_ne (h : Effect i s t) (hne : t.spsr ≠ s.spsr) :
    writesSpsr i = true ∨ entersException i = true := by
  cases h with
  | ordinary h => exact absurd h.spsr hne
  | userLoads _ _ h _ ht => exact absurd (by simp [ht, h.spsr]) hne
  | restored _ h => exact absurd h.spsr hne
  | status r _ hs h =>
    cases r with
    | false =>
      obtain ⟨-, -, -, hspsr⟩ := h.cpsr rfl
      exact absurd hspsr hne
    | true => exact .inl hs
  | entered hi => exact .inr hi
  | cp15 _ _ _ ht => exact absurd (by simp [ht]) hne

theorem writer_of_cp15_ne (h : Effect i s t) (hne : t.cp15 ≠ s.cp15) : movesToCp15 i = true ∧ s.mode ≠ .usr := by
  cases h with
  | ordinary h => exact absurd h.cp15 hne
  | userLoads _ _ h _ ht => exact absurd (by simp [ht, h.cp15]) hne
  | restored _ h => exact absurd h.cp15 hne
  | status _ _ _ h =>
    obtain ⟨-, hcp15, -⟩ := h.rest
    exact absurd hcp15 hne
  | entered _ m off _ hk ht => exact absurd (by simp [ht, takeException_eq s m off hk]) hne
  | cp15 hi hu => exact ⟨hi, hu⟩

theorem writer_of_mem_ne (h : Effect i s t) (hne : t.mem ≠ s.mem) : stores i = true := by
  cases h with
  | ordinary _ hm => exact hm hne
  | userLoads _ _ _ hm ht => exact absurd (by simp [ht, hm]) hne
  | restored _ h => exact absurd h.mem hne
  | status _ _ _ h =>
    obtain ⟨-, -, hmem, -⟩ := h.rest
    exact absurd hmem hne
  | entered _ m off _ hk ht => exact absurd (by simp [ht, takeException_eq s m off hk]) hne
  | cp15 _ _ _ ht => exact absurd (by simp [ht]) hne

/-- What no instruction writes (00_scope.md R9, 10_state.md R38, R39, R46). -/
theorem fixed (h : Effect i s t) : t.params = s.params ∧ t.cp15.mainId = s.cp15.mainId ∧
    t.cp15.cacheType = s.cp15.cacheType ∧ t.stop = s.stop := by
  cases h with
  | ordinary h => simp [h.params, h.cp15, h.stop]
  | userLoads _ _ h _ ht => simp [ht, h.params, h.cp15, h.stop]
  | restored _ h => simp [h.params, h.cp15, h.stop]
  | status _ _ _ h =>
    obtain ⟨-, hcp15, -, hstop, hparams⟩ := h.rest
    simp [hparams, hcp15, hstop]
  | entered _ m off _ hk ht => simp [ht, takeException_eq s m off hk]
  | cp15 _ _ _ ht hmain hcache => simp [ht, hmain, hcache]

end Effect

/-- An instruction that goes on has had its effect. -/
theorem effect_of_exec_eq_next {i : Instr} {s t : State} (h : exec i s = .next t) : Effect i s t := by
  have he := ends_exec i s
  rw [h] at he
  exact he

/-- Settles O58: each clause is read off the effect of the instruction. -/
theorem onlyTheseWrite : Obligations.OnlyTheseWrite := by
  intro i s t h
  have he := effect_of_exec_eq_next h
  exact ⟨he.writer_of_control_ne, he.writer_of_spsr_ne, he.writer_of_cp15_ne, he.writer_of_mem_ne, he.fixed⟩

/-! ### The invariant -/

/-- The SPSRs have bits 27:8 zero, said of all five at once. -/
theorem spsrs_reservedZero_iff (p : Spsrs) :
    (ReservedZero p.fiq ∧ ReservedZero p.irq ∧ ReservedZero p.svc ∧ ReservedZero p.abt ∧ ReservedZero p.und) ↔
      ∀ k, ReservedZero (p.get k) := by
  constructor
  · rintro ⟨hfiq, hirq, hsvc, habt, hund⟩ k
    cases k <;> assumption
  · exact fun h => ⟨h .fiq, h .irq, h .svc, h .abt, h .und⟩

theorem reservedZero_get_set {p : Spsrs} {k : SpsrCell} {v : Word} (hp : ∀ j, ReservedZero (p.get j))
    (hv : ReservedZero v) (j : SpsrCell) : ReservedZero ((p.set k v).get j) := by
  by_cases hj : j = k
  · rw [hj, Spsrs.get_set_same]; exact hv
  · rw [Spsrs.get_set_ne _ hj]; exact hp j

/-- The invariant rests on memory, the status registers and CP15 alone. -/
theorem Halfway.inv {s t : State} (h : Halfway s t) (hi : s.Inv) : t.Inv := by
  obtain ⟨hw, hz, hv, hsp, hb⟩ := hi
  exact ⟨h.wf hw, h.cpsr ▸ hz, h.cpsr ▸ hv, h.spsr ▸ hsp, h.cp15 ▸ hb⟩

/-- Every effect keeps the invariant. -/
theorem Effect.inv {i : Instr} {s t : State} (h : Effect i s t) (hi : s.Inv) : t.Inv := by
  obtain ⟨hw, hz, hv, hsp, hb⟩ := hi
  cases h with
  | ordinary h =>
    exact ⟨h.wf hw, reservedZero_congr_of_status h.status hz, (statusValid_congr_of_status h.status).trans hv,
      h.spsr ▸ hsp, h.cp15 ▸ hb⟩
  | userLoads _ _ h _ ht => exact ht ▸ h.inv ⟨hw, hz, hv, hsp, hb⟩
  | restored _ h =>
    obtain ⟨p, hp, hpv, hpt⟩ := h.status
    obtain ⟨k, -, rfl⟩ : ∃ k, s.mode.spsrCell = some k ∧ s.spsr.get k = p := by simpa [readSpsr_eq] using hp
    exact ⟨h.mem ▸ hw, hpt ▸ (spsrs_reservedZero_iff s.spsr).1 hsp k, hpt ▸ hpv, h.spsr ▸ hsp, h.cp15 ▸ hb⟩
  | status r _ _ h =>
    obtain ⟨-, hcp15, hmem, -⟩ := h.rest
    cases r with
    | false =>
      obtain ⟨htv, htz, -, hspsr⟩ := h.cpsr rfl
      exact ⟨hmem ▸ hw, htz hz, htv, hspsr ▸ hsp, hcp15 ▸ hb⟩
    | true =>
      obtain ⟨hcpsr, k, v, -, hspsr, hvz⟩ := h.spsr rfl
      rw [spsrs_reservedZero_iff] at hsp
      refine ⟨hmem ▸ hw, hcpsr ▸ hz, hcpsr ▸ hv, ?_, hcp15 ▸ hb⟩
      rw [hspsr, spsrs_reservedZero_iff]
      exact reservedZero_get_set hsp (hvz (hsp k))
  | entered _ m off _ hk ht =>
    rw [ht, takeException_eq s m off hk]
    rw [spsrs_reservedZero_iff] at hsp
    exact ⟨hw, entryStatus_reservedZero hz, entryStatus_valid m s.cpsr,
      (spsrs_reservedZero_iff _).2 (reservedZero_get_set hsp hz), hb⟩
  | cp15 _ _ _ ht _ _ hbig => exact ht ▸ ⟨hw, hz, hv, hsp, hbig hb⟩

/-- An outcome whose next state has the invariant, or whose stop left a state with it. -/
abbrev EndsInv (x : Out) : Prop := Ends State.Inv State.Inv x

section
variable {s : State} (hi : s.Inv)
include hi

theorem endsInv_exec (i : Instr) : EndsInv (exec i s) :=
  (ends_exec i s).mono (fun _ h => h.inv hi) fun _ h => h.inv hi

theorem endsInv_runDecoded (w : Word) : EndsInv (runDecoded w s) := by
  unfold runDecoded
  split
  · exact ends_raise _ hi
  · exact ends_raise _ hi
  · split
    · exact ends_refuse _ hi
    · exact ends_raise _ hi
  · split
    · exact endsInv_exec hi _
    · exact ends_raise _ hi

theorem endsInv_runWord (w : Word) : EndsInv (runWord w s) := by
  unfold runWord
  split
  · exact ends_raise _ hi
  · split
    · exact endsInv_runDecoded hi w
    · exact ends_next hi

theorem endsInv_step : EndsInv (step s) := by
  unfold step tick
  split
  · refine ends_andThen ((ends_fetch s).mono (fun _ h => h) fun t ht => ht ▸ hi) fun r hr => ?_
    exact endsInv_runWord (hr.halfway.inv hi) r.1
  · exact ends_next hi

end

/-- The state that a stop leaves has the invariant with its stop record set: the invariant does not speak of it. -/
theorem EndsInv.inv_of_eq {x : Out} (h : EndsInv x) : (∀ t, x = .next t → t.Inv) ∧ (∀ f, x = .fault f → f.left.Inv) ∧
    ∀ r t, x = .refused r → r.left = some t → t.Inv := by
  refine ⟨fun t hx => ?_, fun f hx => ?_, fun r t hx ht => ?_⟩ <;> subst hx
  · exact h
  · obtain ⟨r, s, rfl, hs⟩ := h
    rw [FaultRecord.left_leaving]
    exact hs
  · obtain ⟨q, s, rfl, hs⟩ := h
    rw [RefusalReason.left_leaving, Option.some.injEq] at ht
    exact ht ▸ hs

/-- Settles O56: the fetch changes no part that the invariant speaks of, and every effect keeps it. -/
theorem stepKeepsInv : Obligations.StepKeepsInv := fun _ hi => (endsInv_step hi).inv_of_eq

end Sys2Proof.Machine
end

section
/-! PROOFS. The memory store and the fetch from it (20_memory.md R61 to R64, R71), and address translation (R80 to R97):
what the walk does at each type of descriptor, and from it what translation answers, why it stops, and that privilege only
adds permission. -/

namespace Sys2Proof.Machine

open Sys2Proof.Claims

/-! ### The memory store -/

/-- Settles O55: the laws of the store, together. -/
theorem memoryLaws : Obligations.MemoryLaws := fun _ pa v _ n hm =>
  ⟨fun a x => Memory.read_write hm a x _, fun _ ha => Memory.wf_write hm _ ha, Memory.wf_store hm pa v n,
    fun _ hm' h => Memory.eq_of_read hm' hm h, Memory.load_store_word hm pa v,
    fun _ hk => Memory.read_store_inside hm pa v n hk, fun _ ha => Memory.read_store_outside hm pa v n ha⟩

/-- Settles O7: an access that reaches ordinary memory loads the word there, and the load of a word is its four bytes. -/
theorem fetchReadsMemory : Obligations.FetchReadsMemory := fun _ _ ⟨ha, ht, hd⟩ => memRead_memory ha ht hd

/-! ### The access permission table -/

/-- The values of a two-bit field: an AP field, a descriptor type. -/
theorem twoBits_cases (b : BitVec 2) : b = 0 ∨ b = 1 ∨ b = 2 ∨ b = 3 := by
  revert b
  decide

/-- Settles O53, one AP value after the other. -/
theorem permissionTable : Obligations.PermissionTable := by
  intro ap sys rom priv
  rcases twoBits_cases ap with rfl | rfl | rfl | rfl
  · cases sys <;> cases rom <;> simp [apTable, Perm.allows]
  · simp [apTable, Perm.allows]
  · simp [apTable, Perm.allows]
  · simp [apTable, Perm.allows]

/-! ### The walk, by the type of each descriptor (20_memory.md R82, R87) -/

section
variable {s : State} {va : Word}

/-- The walk of a section (R84). -/
theorem walk_section (h : typeOf (firstDescriptor s va) = 2) (acc : Access) (priv : Bool) :
    walk va acc priv s = checkAccess (domainOf (firstDescriptor s va)) ((firstDescriptor s va).extractLsb' 10 2) .sect va
      acc priv (sectionAddr (firstDescriptor s va) va) s :=
  if_pos h

/-- The walk through a table, coarse or fine, goes on with the second-level descriptor (R85, R86). -/
theorem walk_table (h : typeOf (firstDescriptor s va) = 1 ∨ typeOf (firstDescriptor s va) = 3) (acc : Access)
    (priv : Bool) :
    walk va acc priv s = walkPage (domainOf (firstDescriptor s va)) (secondDescriptor s va) va acc priv s := by
  rcases h with h | h
  · have h2 : secondDescriptor s va = s.mem.load (coarseAddr (firstDescriptor s va) va) .word := if_pos h
    rw [h2]
    exact (if_neg (h.trans_ne (by decide))).trans (if_pos h)
  · have h1 : typeOf (firstDescriptor s va) ≠ 1 := by rw [h]; decide
    have h2 : secondDescriptor s va = s.mem.load (fineAddr (firstDescriptor s va) va) .word := if_neg h1
    rw [h2]
    exact (if_neg (h.trans_ne (by decide))).trans ((if_neg h1).trans (if_pos h))

/-- The walk stops at a first-level descriptor of type 0 (R83). -/
theorem walk_unmapped (h : typeOf (firstDescriptor s va) = 0) (acc : Access) (priv : Bool) :
    walk va acc priv s = raise (.translation .sect va acc) s :=
  (if_neg (h.trans_ne (by decide))).trans ((if_neg (h.trans_ne (by decide))).trans (if_neg (h.trans_ne (by decide))))

variable {d : BitVec 4} {l2 : Word}

theorem walkPage_large (h : typeOf l2 = 1) (acc : Access) (priv : Bool) :
    walkPage d l2 va acc priv s =
      checkAccess d (apOf l2 (va.extractLsb' 14 2)) .page va acc priv (largeAddr l2 va) s :=
  if_pos h

theorem walkPage_small (h : typeOf l2 = 2) (acc : Access) (priv : Bool) :
    walkPage d l2 va acc priv s =
      checkAccess d (apOf l2 (va.extractLsb' 10 2)) .page va acc priv (smallAddr l2 va) s :=
  (if_neg (h.trans_ne (by decide))).trans (if_pos h)

theorem walkPage_tiny (h : typeOf l2 = 3) (acc : Access) (priv : Bool) :
    walkPage d l2 va acc priv s = checkAccess d (apOf l2 0) .page va acc priv (tinyAddr l2 va) s :=
  (if_neg (h.trans_ne (by decide))).trans ((if_neg (h.trans_ne (by decide))).trans (if_pos h))

/-- The walk stops at a second-level descriptor of type 0 (R88). -/
theorem walkPage_unmapped (h : typeOf l2 = 0) (acc : Access) (priv : Bool) :
    walkPage d l2 va acc priv s = raise (.translation .page va acc) s :=
  (if_neg (h.trans_ne (by decide))).trans ((if_neg (h.trans_ne (by decide))).trans (if_neg (h.trans_ne (by decide))))

end

/-! ### The fields that the checks read -/

/-- A field is what is left at the bottom after the bits below it are shifted out. -/
theorem extractLsb'_eq_shifted (v : Word) (lo n : Nat) : v.extractLsb' lo n = (v >>> lo).extractLsb' 0 n := by
  simp [BitVec.extractLsb']

theorem dacField_eq (dacr : Word) (d : BitVec 4) : dacField dacr d = (dacr >>> (2 * d.toNat)).extractLsb' 0 2 :=
  extractLsb'_eq_shifted ..

/-- AP(k), k being two bits of the address (R89). -/
theorem apOf_extract (l2 va : Word) (lo : Nat) :
    apOf l2 (va.extractLsb' lo 2) = (l2 >>> (4 + 2 * (va.toNat / 2 ^ lo % 4))).extractLsb' 0 2 := by
  rw [apOf, extractLsb'_eq_shifted, BitVec.extractLsb'_toNat, Nat.shiftRight_eq_div_pow]

/-- A check answers the address it was given exactly when it passes. -/
theorem checkAccess_eq_next_iff_checkPasses {d : BitVec 4} {ap : BitVec 2} {level : Level} {va pa r : Word} {acc : Access}
    {priv : Bool} {s : State} :
    checkAccess d ap level va acc priv pa s = .next r ↔ CheckPasses s d ap acc priv ∧ r.toNat = pa.toNat := by
  rw [checkAccess_eq_next, dacField_eq, and_comm, BitVec.toNat_inj]
  rfl

/-- The walk answers an address exactly when its descriptors map one and the checks pass (R94). -/
theorem walkPage_eq_next {d : BitVec 4} {l2 va pa : Word} {acc : Access} {priv : Bool} {s : State} :
    walkPage d l2 va acc priv s = .next pa ↔
      (typeOf l2 = 1 ∧ CheckPasses s d ((l2 >>> (4 + 2 * (va.toNat / 2 ^ 14 % 4))).extractLsb' 0 2) acc priv ∧
        pa.toNat = l2.toNat / 2 ^ 16 * 2 ^ 16 + va.toNat % 2 ^ 16) ∨
      (typeOf l2 = 2 ∧ CheckPasses s d ((l2 >>> (4 + 2 * (va.toNat / 2 ^ 10 % 4))).extractLsb' 0 2) acc priv ∧
        pa.toNat = l2.toNat / 2 ^ 12 * 2 ^ 12 + va.toNat % 2 ^ 12) ∨
      (typeOf l2 = 3 ∧ CheckPasses s d ((l2 >>> (4 + 2 * 0)).extractLsb' 0 2) acc priv ∧
        pa.toNat = l2.toNat / 2 ^ 10 * 2 ^ 10 + va.toNat % 2 ^ 10) := by
  rcases twoBits_cases (typeOf l2) with h | h | h | h
  · simp [walkPage_unmapped h, h]
  · simp [walkPage_large h, h, checkAccess_eq_next_iff_checkPasses, apOf_extract, largeAddr_toNat]
  · simp [walkPage_small h, h, checkAccess_eq_next_iff_checkPasses, apOf_extract, smallAddr_toNat]
  · simp [walkPage_tiny h, h, checkAccess_eq_next_iff_checkPasses, tinyAddr_toNat, apOf, extractLsb'_eq_shifted l2 4]

/-- The walk answers an address exactly when its descriptors map one and the checks pass (R94). -/
theorem walk_eq_next {va pa : Word} {acc : Access} {priv : Bool} {s : State} :
    walk va acc priv s = .next pa ↔
      (typeOf (firstDescriptor s va) = 2 ∧
        CheckPasses s (domainOf (firstDescriptor s va)) ((firstDescriptor s va).extractLsb' 10 2) acc priv ∧
        pa.toNat = (firstDescriptor s va).toNat / 2 ^ 20 * 2 ^ 20 + va.toNat % 2 ^ 20) ∨
      ((typeOf (firstDescriptor s va) = 1 ∨ typeOf (firstDescriptor s va) = 3) ∧
        walkPage (domainOf (firstDescriptor s va)) (secondDescriptor s va) va acc priv s = .next pa) := by
  rcases twoBits_cases (typeOf (firstDescriptor s va)) with h | h | h | h
  · simp [walk_unmapped h, h]
  · simp [walk_table (.inl h), h]
  · simp [walk_section h, h, checkAccess_eq_next_iff_checkPasses, sectionAddr_toNat]
  · simp [walk_table (.inr h), h]

/-! ### Translation -/

theorem translate_off {s : State} (h : s.mmuOn = false) (va : Word) (acc : Access) (priv : Bool) :
    translate va acc priv s = .next va := by
  simp [translate, h]

theorem translate_on {s : State} (h : s.mmuOn = true) (va : Word) (acc : Access) (priv : Bool) :
    translate va acc priv s = walk va acc priv s := by
  simp [translate, h]

/-- Settles O51: the walk by the types of its descriptors. -/
theorem translationResults : Obligations.TranslationResults := by
  intro s va pa acc priv
  refine ⟨fun h => translate_off h va acc priv, fun h => ?_⟩
  have hw := walk_eq_next (va := va) (pa := pa) (acc := acc) (priv := priv) (s := s)
  rw [walkPage_eq_next, ← translate_on h] at hw
  exact hw

/-! ### What the privilege of an access adds (R91) -/

/-- A permission without privilege is one with privilege. -/
theorem apTable_privileged {ap : BitVec 2} {sys rom priv : Bool} {acc : Access}
    (h : ∃ m, apTable ap sys rom priv = some m ∧ m.allows acc = true) :
    ∃ m, apTable ap sys rom true = some m ∧ m.allows acc = true := by
  rcases twoBits_cases ap with rfl | rfl | rfl | rfl
  · cases sys <;> cases rom <;> cases acc <;> simp_all [apTable, Perm.allows]
  · cases acc <;> simp_all [apTable, Perm.allows]
  · cases acc <;> simp_all [apTable, Perm.allows]
  · cases acc <;> simp_all [apTable, Perm.allows]

theorem checkAccess_privileged {d : BitVec 4} {ap : BitVec 2} {level : Level} {va pa r : Word} {acc : Access} {priv : Bool}
    {s : State} (h : checkAccess d ap level va acc priv pa s = .next r) :
    checkAccess d ap level va acc true pa s = .next r := by
  rw [checkAccess_eq_next] at h ⊢
  obtain ⟨hr, h | ⟨hd, hp⟩⟩ := h
  · exact ⟨hr, .inl h⟩
  · exact ⟨hr, .inr ⟨hd, apTable_privileged hp⟩⟩

theorem walkPage_privileged {d : BitVec 4} {l2 va pa : Word} {acc : Access} {priv : Bool} {s : State}
    (h : walkPage d l2 va acc priv s = .next pa) : walkPage d l2 va acc true s = .next pa := by
  rcases twoBits_cases (typeOf l2) with ht | ht | ht | ht
  · rw [walkPage_unmapped ht] at h ⊢
    exact h
  · rw [walkPage_large ht] at h ⊢
    exact checkAccess_privileged h
  · rw [walkPage_small ht] at h ⊢
    exact checkAccess_privileged h
  · rw [walkPage_tiny ht] at h ⊢
    exact checkAccess_privileged h

/-- What is allowed without privilege is allowed with it. -/
theorem translate_privileged {va pa : Word} {acc : Access} {priv : Bool} {s : State}
    (h : translate va acc priv s = .next pa) : translate va acc true s = .next pa := by
  cases hon : s.mmuOn with
  | false =>
    rw [translate_off hon] at h ⊢
    exact h
  | true =>
    rw [translate_on hon, walk_eq_next] at h ⊢
    exact h.imp (And.imp_right (And.imp_left (Or.imp_right (And.imp_right apTable_privileged))))
      (And.imp_right walkPage_privileged)

/-- Settles O54: translation depends on memory and CP15 alone, keeps the low bits, and privilege only adds permission. -/
theorem translationLaws : Obligations.TranslationLaws := fun _ _ _ _ _ _ h =>
  ⟨fun hm hc => translate_congr hm hc h, translate_low h, translate_privileged h⟩

/-! ### Why a translation stops -/

section
variable {s : State} {d : BitVec 4} {ap : BitVec 2} {acc : Access} {priv : Bool}

/-- A domain without access (R90). -/
theorem checkAccess_no_access (h : dacField s.cp15.dacr d = 0 ∨ dacField s.cp15.dacr d = 2) (level : Level)
    (va pa : Word) : checkAccess d ap level va acc priv pa s = raise (.domain va acc d level) s := by
  rcases h with h | h <;> simp [checkAccess, h]

/-- A client's access that the AP field does not allow (R93). -/
theorem checkAccess_not_allowed (h : dacField s.cp15.dacr d = 1) {m : Perm}
    (hm : apTable ap s.sysProt s.romProt priv = some m) (ha : m.allows acc = false) (level : Level) (va pa : Word) :
    checkAccess d ap level va acc priv pa s = raise (.permission va acc d ap level) s := by
  simp [checkAccess, h, hm, ha]

/-- A client's access under AP = 0 with S = R = 1 (R91). -/
theorem checkAccess_apSR11 (h : dacField s.cp15.dacr d = 1) (hm : apTable ap s.sysProt s.romProt priv = none)
    (level : Level) (va pa : Word) : checkAccess d ap level va acc priv pa s = refuse .apSR11 s := by
  simp [checkAccess, h, hm]

/-- A translation that comes down to a check stops as the check does, the domain first. -/
theorem translate_stops_of_check {va pa : Word} {level : Level}
    (h : translate va acc priv s = checkAccess d ap level va acc priv pa s) :
    (dacField s.cp15.dacr d = 0 ∨ dacField s.cp15.dacr d = 2 →
      translate va acc priv s = raise (.domain va acc d level) s) ∧
    (dacField s.cp15.dacr d = 1 →
      (∀ m, apTable ap s.sysProt s.romProt priv = some m → m.allows acc = false →
        translate va acc priv s = raise (.permission va acc d ap level) s) ∧
      (apTable ap s.sysProt s.romProt priv = none → translate va acc priv s = refuse .apSR11 s)) := by
  rw [h]
  exact ⟨fun hd => checkAccess_no_access hd level va pa, fun hd =>
    ⟨fun _ hm ha => checkAccess_not_allowed hd hm ha level va pa, fun hm => checkAccess_apSR11 hd hm level va pa⟩⟩

end

/-- Settles O52: each descriptor type leads to a stop of its own or to a check. -/
theorem translationStops : Obligations.TranslationStops := by
  intro s va acc priv hon stops l1 d dac l2 check
  have ht := translate_on hon va acc priv
  have hcheck : ∀ {ap level pa}, translate va acc priv s = checkAccess d ap level va acc priv pa s → check ap level := by
    intro ap level pa h
    have hs := translate_stops_of_check h
    rw [dacField_eq] at hs
    exact hs
  refine ⟨fun h => ht.trans (walk_unmapped h acc priv), fun h => hcheck (ht.trans (walk_section h acc priv)), fun h => ?_⟩
  replace ht := ht.trans (walk_table h acc priv)
  refine ⟨fun h => ht.trans (walkPage_unmapped h acc priv), fun h => ?_, fun h => ?_,
    fun h => hcheck (ht.trans (walkPage_tiny h acc priv))⟩
  · rw [← apOf_extract l2 va]
    exact hcheck (ht.trans (walkPage_large h acc priv))
  · rw [← apOf_extract l2 va]
    exact hcheck (ht.trans (walkPage_small h acc priv))

end Sys2Proof.Machine
end

section
/-! PROOFS. Single transfers (45_load_store.md R250 to R268): what a form that R268 does not refuse runs, said once for the
loads and for the stores of a word and of less; from it the transfers whose access faults (20_memory.md R68 to R70,
40_dispatch.md R159, R163) and those that reach a device (R65, R66). -/

namespace Sys2Proof.Machine

open Sys2Proof.Claims

/-! ### Guards that pass -/

theorem unlessPcOffset_eq {rm : Reg} (h : (rm == 15) = false) (s : State) (k : Out) : unlessPcOffset rm s k = k := by
  simp [unlessPcOffset, h]

theorem unlessPcLoad_eq {rd : Reg} (h : (rd == 15) = false) (s : State) (k : Out) : unlessPcLoad rd s k = k := by
  simp [unlessPcLoad, h]

theorem unlessHalfRefused_eq {p w : Bool} {rd : Reg} (h : halfRefused p w rd = false) (s : State) (k : Out) :
    unlessHalfRefused p w rd s k = k := by
  simp [unlessHalfRefused, h]

/-! ### The forms of a transfer -/

/-- What the forms of one transfer have in common where none is refused: the instruction runs the transfer; nothing that
R268 refuses of every form holds; and a base that is written back is neither r15 nor refused by `badBack`. -/
structure RunsAs (x : Single) (s : State) (rn : Reg) (bad badBack : Bool)
    (run : Width → (Word → Word) → Bool → Transfer → State → Out) : Prop where
  exec_eq : exec x.instr s = run x.width x.ext x.priv ⟨x.addr, x.upd, x.back⟩ s
  bad_eq : bad = false
  base : x.back = true → rn ≠ 15 ∧ badBack = false

namespace RunsAs
variable {x : Single} {s : State} {rn rd : Reg} {bad badBack : Bool}
  {run : Width → (Word → Word) → Bool → Transfer → State → Out}

theorem base_ne (h : RunsAs x s rn bad badBack run) (hb : x.back = true) : rn ≠ 15 := (h.base hb).1

theorem backToPc (h : RunsAs x s rn bad badBack run) : Transfer.backToPc ⟨x.addr, x.upd, x.back⟩ rn = false := by
  simpa [Transfer.backToPc] using h.base_ne

theorem backToData (h : RunsAs x s rn bad (rn == rd) run) : Transfer.backToData ⟨x.addr, x.upd, x.back⟩ rn rd = false := by
  simpa [Transfer.backToData] using fun hb => (h.base hb).2

end RunsAs

section
variable {s : State} {c : Cond} (hc : Cond.passes c s.flags = true) {u w : Bool} {rn : Reg} {width : Width} {badBack : Bool}
  {run : Width → (Word → Word) → Bool → Transfer → State → Out} {x : Single}
include hc

/-- The six forms of addressing mode 2 run one transfer, if each of them does behind its guards. -/
theorem runsAs_of_mem_mode2 {off : BitVec 12} {op : RsiOp} {bad badT : Bool}
    {immPre immPost immT regPre regPost regT : Instr}
    (hx : x ∈ mode2 s u w rn off op width bad badT badBack immPre immPost immT regPre regPost regT)
    (hr : x.refused = false) {guardT : State → Out → Out} (hT : badT = false → ∀ s k, guardT s k = k)
    (himmPre : exec immPre s = whenPassed c s fun s =>
      run width id s.privileged (preIndexed u w (s.readReg rn) (offset12 off)) s)
    (himmPost : exec immPost s = whenPassed c s fun s =>
      run width id s.privileged (postIndexed u (s.readReg rn) (offset12 off)) s)
    (himmT : exec immT s = whenPassed c s fun s =>
      guardT s (run width id false (postIndexed u (s.readReg rn) (offset12 off)) s))
    (hregPre : exec regPre s = whenPassed c s fun s => unlessPcOffset op.rm s
      (run width id s.privileged (preIndexed u w (s.readReg rn) (offsetReg op s)) s))
    (hregPost : exec regPost s = whenPassed c s fun s => unlessPcOffset op.rm s
      (run width id s.privileged (postIndexed u (s.readReg rn) (offsetReg op s)) s))
    (hregT : exec regT s = whenPassed c s fun s => guardT s (unlessPcOffset op.rm s
      (run width id false (postIndexed u (s.readReg rn) (offsetReg op s)) s))) :
    x.width = width ∧ RunsAs x s rn bad badBack run := by
  rw [whenPassed_pass hc] at himmPre himmPost himmT hregPre hregPost hregT
  simp only [mode2, List.mem_cons, List.not_mem_nil, or_false] at hx
  rcases hx with rfl | rfl | rfl | rfl | rfl | rfl
  · obtain ⟨hbad, hb⟩ : bad = false ∧ (w = true → rn ≠ 15 ∧ badBack = false) := by simpa using hr
    exact ⟨rfl, himmPre, hbad, hb⟩
  · obtain ⟨hbad, hb⟩ : bad = false ∧ rn ≠ 15 ∧ badBack = false := by simpa using hr
    exact ⟨rfl, himmPost, hbad, fun _ => hb⟩
  · obtain ⟨⟨hbad, ht⟩, hb⟩ : (bad = false ∧ badT = false) ∧ rn ≠ 15 ∧ badBack = false := by simpa using hr
    rw [hT ht] at himmT
    exact ⟨rfl, himmT, hbad, fun _ => hb⟩
  · obtain ⟨⟨hbad, hm⟩, hb⟩ : (bad = false ∧ (op.rm == 15) = false) ∧ (w = true → rn ≠ 15 ∧ badBack = false) := by
      simpa using hr
    rw [unlessPcOffset_eq hm] at hregPre
    exact ⟨rfl, hregPre, hbad, hb⟩
  · obtain ⟨⟨hbad, hm⟩, hb⟩ : (bad = false ∧ (op.rm == 15) = false) ∧ rn ≠ 15 ∧ badBack = false := by simpa using hr
    rw [unlessPcOffset_eq hm] at hregPost
    exact ⟨rfl, hregPost, hbad, fun _ => hb⟩
  · obtain ⟨⟨⟨hbad, ht⟩, hm⟩, hb⟩ :
        ((bad = false ∧ badT = false) ∧ (op.rm == 15) = false) ∧ rn ≠ 15 ∧ badBack = false := by simpa using hr
    rw [hT ht, unlessPcOffset_eq hm] at hregT
    exact ⟨rfl, hregT, hbad, fun _ => hb⟩

/-- The two forms of addressing mode 3 run one transfer, if each of them does behind its guards. -/
theorem runsAs_of_mem_mode3 {p : Bool} {rd rm : Reg} {off : BitVec 8} {ext : Word → Word} {imm reg : Instr}
    (hx : x ∈ mode3 s p u w rn rd off rm width ext badBack imm reg) (hr : x.refused = false)
    (himm : exec imm s = whenPassed c s fun s => unlessHalfRefused p w rd s
      (run width ext s.privileged (halfTransfer p u w (s.readReg rn) (offset8 off)) s))
    (hreg : exec reg s = whenPassed c s fun s => unlessHalfRefused p w rd s (unlessPcOffset rm s
      (run width ext s.privileged (halfTransfer p u w (s.readReg rn) (s.readReg rm)) s))) :
    x.width = width ∧ RunsAs x s rn (rd == 15) badBack run := by
  have ht : ∀ o, halfTransfer p u w (s.readReg rn) o =
      ⟨if p then indexed u (s.readReg rn) o else s.readReg rn, indexed u (s.readReg rn) o, !p || w⟩ := by
    cases p <;> exact fun o => rfl
  have hsplit : ∀ {back : Bool}, (rd == 15 || (!p && w) || (back && (rn == 15 || badBack))) = false →
      halfRefused p w rd = false ∧ (rd == 15) = false ∧ (back = true → rn ≠ 15 ∧ badBack = false) := by
    intro back h
    rw [Bool.or_eq_false_iff] at h
    obtain ⟨h, hb⟩ := h
    exact ⟨h, (Bool.or_eq_false_iff.1 h).1, by simpa using hb⟩
  rw [whenPassed_pass hc, ht] at himm hreg
  simp only [mode3, List.mem_cons, List.not_mem_nil, or_false] at hx
  rcases hx with rfl | rfl
  · obtain ⟨hh, hrd, hb⟩ := hsplit hr
    rw [unlessHalfRefused_eq hh] at himm
    exact ⟨rfl, himm, hrd, hb⟩
  · obtain ⟨hr, hm⟩ := Bool.or_eq_false_iff.1 hr
    obtain ⟨hh, hrd, hb⟩ := hsplit hr
    rw [unlessHalfRefused_eq hh, unlessPcOffset_eq hm] at hreg
    exact ⟨rfl, hreg, hrd, hb⟩

end

/-! ### What the loads and the stores run -/

section
variable {s : State} {c : Cond} {p u w : Bool} {rn rd rm : Reg} {off : BitVec 12} {op : RsiOp} {off8 : BitVec 8} {x : Single}
  (hc : Cond.passes c s.flags = true) (hr : x.refused = false)
include hc hr

theorem runsAs_wordLoad (hx : x ∈ wordLoads s c u w rn rd off op) :
    x.width = .word ∧ RunsAs x s rn false false fun _ _ priv t s => ldrWord priv rn rd t s :=
  runsAs_of_mem_mode2 hc hx hr (fun h => unlessPcLoad_eq h) rfl rfl rfl rfl rfl rfl

theorem runsAs_wordStore (hx : x ∈ wordStores s c u w rn rd off op) :
    x.width = .word ∧ RunsAs x s rn false (rn == rd) fun _ _ priv t s => strWord priv rn rd t s :=
  runsAs_of_mem_mode2 hc hx hr (guardT := fun _ k => k) (fun _ _ _ => rfl) rfl rfl rfl rfl rfl rfl

theorem runsAs_byteLoad (hx : x ∈ byteLoads s c u w rn rd off op) :
    x.width = .byte ∧ RunsAs x s rn (rd == 15) false fun n ext priv t s => ldrNarrow n ext priv rn rd t s :=
  runsAs_of_mem_mode2 hc hx hr (guardT := fun _ k => k) (fun _ _ _ => rfl) rfl rfl rfl rfl rfl rfl

theorem runsAs_byteStore (hx : x ∈ byteStores s c u w rn rd off op) :
    x.width = .byte ∧ RunsAs x s rn (rd == 15) (rn == rd) fun n _ priv t s => strNarrow n priv rn rd t s :=
  runsAs_of_mem_mode2 hc hx hr (guardT := fun _ k => k) (fun _ _ _ => rfl) rfl rfl rfl rfl rfl rfl

theorem runsAs_halfLoad (hx : x ∈ halfLoads s c p u w rn rd off8 rm) :
    x.width ≠ .word ∧ RunsAs x s rn (rd == 15) false fun n ext priv t s => ldrNarrow n ext priv rn rd t s := by
  simp only [halfLoads, List.mem_append] at hx
  rcases hx with (hx | hx) | hx
  · exact And.imp_left (fun hw => by simp [hw]) (runsAs_of_mem_mode3 hc hx hr rfl rfl)
  · exact And.imp_left (fun hw => by simp [hw]) (runsAs_of_mem_mode3 hc hx hr rfl rfl)
  · exact And.imp_left (fun hw => by simp [hw]) (runsAs_of_mem_mode3 hc hx hr rfl rfl)

theorem runsAs_halfStore (hx : x ∈ halfStores s c p u w rn rd off8 rm) :
    x.width = .half ∧ RunsAs x s rn (rd == 15) (rn == rd) fun n _ priv t s => strNarrow n priv rn rd t s :=
  runsAs_of_mem_mode3 hc hx hr rfl rfl

/-- A word load: after the write-back the load, then the register. -/
theorem exec_wordLoad (hx : x ∈ wordLoads s c u w rn rd off op) :
    x.width = .word ∧ (x.back = true → rn ≠ 15) ∧
      exec x.instr s = andThen (loadWord x.addr x.priv (x.backState s rn)) fun r =>
        .next (r.2.finishWith rd (if rd = 15 then r.1 &&& 0xFFFFFFFC#32 else r.1)) := by
  obtain ⟨hw, h⟩ := runsAs_wordLoad hc hr hx
  exact ⟨hw, h.base_ne, h.exec_eq.trans (if_neg (by simp [h.backToPc]))⟩

/-- A load of less than a word. -/
theorem exec_narrowLoad (hx : x ∈ byteLoads s c u w rn rd off op ++ halfLoads s c p u w rn rd off8 rm) :
    x.width ≠ .word ∧ (x.back = true → rn ≠ 15) ∧
      exec x.instr s = andThen (memRead x.addr x.width .read x.priv (x.backState s rn)) fun r =>
        .next (r.2.writeReg rd (x.ext r.1)).advance := by
  obtain ⟨hw, h⟩ : x.width ≠ .word ∧ RunsAs x s rn (rd == 15) false fun n ext priv t s => ldrNarrow n ext priv rn rd t s := by
    rcases List.mem_append.1 hx with hx | hx
    · exact And.imp_left (fun hw => by simp [hw]) (runsAs_byteLoad hc hr hx)
    · exact runsAs_halfLoad hc hr hx
  exact ⟨hw, h.base_ne, h.exec_eq.trans (if_neg (by simp [h.backToPc, h.bad_eq]))⟩

/-- A word store: the data is read before the write-back. -/
theorem exec_wordStore (hx : x ∈ wordStores s c u w rn rd off op) :
    x.width = .word ∧ (x.back = true → rn ≠ 15) ∧
      exec x.instr s = andThen (memWrite x.addr x.width (s.readReg rd) x.priv (x.backState s rn)) fun s' =>
        .next s'.advance := by
  obtain ⟨hw, h⟩ := runsAs_wordStore hc hr hx
  refine ⟨hw, h.base_ne, h.exec_eq.trans ?_⟩
  rw [hw]
  exact if_neg (by simp [h.backToPc, h.backToData])

/-- A store of less than a word. -/
theorem exec_narrowStore (hx : x ∈ byteStores s c u w rn rd off op ++ halfStores s c p u w rn rd off8 rm) :
    x.width ≠ .word ∧ (x.back = true → rn ≠ 15) ∧
      exec x.instr s = andThen (memWrite x.addr x.width (s.readReg rd) x.priv (x.backState s rn)) fun s' =>
        .next s'.advance := by
  obtain ⟨hw, h⟩ :
      x.width ≠ .word ∧ RunsAs x s rn (rd == 15) (rn == rd) fun n _ priv t s => strNarrow n priv rn rd t s := by
    rcases List.mem_append.1 hx with hx | hx
    · exact And.imp_left (fun hw => by simp [hw]) (runsAs_byteStore hc hr hx)
    · exact And.imp_left (fun hw => by simp [hw]) (runsAs_halfStore hc hr hx)
  exact ⟨hw, h.base_ne, h.exec_eq.trans (if_neg (by simp [h.backToPc, h.backToData, h.bad_eq]))⟩

end

/-! ### The state after the write-back (40_dispatch.md R159) -/

section
variable {x : Single} {s : State} {rn : Reg}

theorem backState_halfway (hb : x.back = true → rn ≠ 15) : Halfway s (x.backState s rn) :=
  writeBack_halfway (t := ⟨x.addr, x.upd, x.back⟩) (by simpa [Transfer.backToPc] using hb) s

variable (x s rn)

@[simp] theorem backState_mem : (x.backState s rn).mem = s.mem := by
  unfold Single.backState; split <;> simp

@[simp] theorem backState_cp15 : (x.backState s rn).cp15 = s.cp15 := by
  unfold Single.backState; split <;> simp

@[simp] theorem backState_params : (x.backState s rn).params = s.params := by
  unfold Single.backState; split <;> simp

@[simp] theorem backState_devLog : (x.backState s rn).devLog = s.devLog := by
  unfold Single.backState; split <;> simp

@[simp] theorem backState_draws : (x.backState s rn).draws = s.draws := by
  unfold Single.backState; split <;> simp

/-- The write-back changes no cell but the base's. -/
theorem backState_sameRegsBut : SameRegsBut (x.backCells s rn) s (x.backState s rn) := by
  unfold Single.backState Single.backCells
  split
  · exact fun k hk => s.writeAs_cells s.mode rn x.upd hk
  · exact fun k _ => rfl

end

/-- A register holds what is written to it. -/
theorem holds_writeReg {s t : State} (hm : t.mode = s.mode) (i : Reg) (v : Word) : Holds s (t.writeReg i v) i v := by
  intro k hk
  rw [State.writeReg, hm, t.writeAs_of_cell hk]
  exact Regs.get_set_same ..

/-- A write of one register leaves what another holds. -/
theorem Holds.writeReg {s t : State} {i j : Reg} {v : Word} (h : Holds s t j v) (hm : t.mode = s.mode) (hij : i ≠ j)
    (w : Word) : Holds s (t.writeReg i w) j v := by
  intro k hk
  have hki : k ∉ (s.mode.cell i).toList := fun hm => hij (s.mode.cell_injective (Option.mem_toList.1 hm) hk)
  rw [State.writeReg, hm, t.writeAs_cells _ i w hki]
  exact h k hk

theorem backState_holds {x : Single} (s : State) (rn : Reg) (hb : x.back = true) : Holds s (x.backState s rn) rn x.upd := by
  rw [Single.backState, if_pos hb]
  exact holds_writeReg rfl rn x.upd

/-! ### The ends of a load and of a store -/

section
variable {x : Single} {s u : State} {rn : Reg} (hb : x.back = true → rn ≠ 15) (hu : SameButMemory (x.backState s rn) u)
include hb hu

/-- What an access after the write-back leaves as it was. -/
theorem afterBack_halfway : Halfway s u := by
  obtain ⟨hu, hw⟩ := hu
  refine (backState_halfway hb).trans ?_
  rw [hu]
  exact ⟨rfl, rfl, rfl, rfl, rfl, rfl, hw⟩

omit hb in
theorem afterBack_regs : u.regs = (x.backState s rn).regs := by
  obtain ⟨hu, -⟩ := hu
  rw [hu]

/-- The end of a store, whatever it stored (R253, R255). -/
theorem stored_advance : Stored x s u.advance rn := by
  have hh := afterBack_halfway hb hu
  have hregs := afterBack_regs hu
  refine ⟨by simp [hh.pc], fun hback k hk => ?_, fun k hk => ?_, hh.cpsr, hh.spsr, hh.cp15, hh.stop, hh.params⟩
  · rw [State.advance_regs, hregs]
    exact backState_holds s rn hback k hk
  · rw [State.advance_regs, hregs]
    exact backState_sameRegsBut x s rn k hk

end

/-- The end of a load, whatever it loaded (R252). -/
theorem loaded_finishWith {x : Single} {s u : State} {rn : Reg} (hb : x.back = true → rn ≠ 15)
    (hu : SameButDevices (x.backState s rn) u) (rd : Reg) (v : Word) :
    Loaded x s (u.finishWith rd (if rd = 15 then v &&& 0xFFFFFFFC#32 else v)) rn rd v := by
  have hh := afterBack_halfway hb hu.memory
  have hregs := afterBack_regs hu.memory
  have hmem : u.mem = s.mem := by
    rw [hu]
    simp
  have hmode : u.mode = s.mode := State.mode_congr hh.cpsr
  have hsame : SameRegsBut (x.backCells s rn) s u := by
    rw [SameRegsBut, hregs]
    exact backState_sameRegsBut x s rn
  have hbase : x.back = true → Holds s u rn x.upd := by
    intro hback
    rw [Holds, hregs]
    exact backState_holds s rn hback
  refine ⟨?_, fun hback hne => ?_, fun k hk => ?_, by simp [hh.cpsr], ⟨by simp [hh.spsr], by simp [hh.cp15],
    by simp [hh.stop], by simp [hh.params]⟩, fun a => by simp [hmem]⟩
  · by_cases hrd : rd = 15
    · simp [hrd, finishWith_pc15]
    · simp only [if_neg hrd, finishWith_of_ne u hrd]
      exact ⟨holds_writeReg hmode rd v, by simp [hrd, hh.pc]⟩
  · by_cases hrd : rd = 15
    · rw [hrd, finishWith_pc15]
      exact hbase hback
    · rw [finishWith_of_ne u hrd]
      exact Holds.writeReg (hbase hback) hmode (Ne.symm hne) _
  · rw [List.mem_append, not_or] at hk
    obtain ⟨hkd, hkb⟩ := hk
    rw [← hsame k hkb]
    by_cases hrd : rd = 15
    · rw [hrd, finishWith_pc15, State.setPc_regs]
    · rw [finishWith_of_ne u hrd]
      exact u.writeAs_cells _ rd _ (hmode ▸ hkd)

/-! ### The word load at its aligned address (20_memory.md R69) -/

/-- The low two bits of an address, which say by how many bytes the word is rotated. -/
theorem toNat_extractLsb'_low (a : Word) : (a.extractLsb' 0 2).toNat = a.toNat % 4 := by
  simp

/-- Clearing the low two bits of an aligned address. -/
theorem and_wordMask_of_aligned {a : Word} (h : misaligned a .word = false) : a &&& 0xFFFFFFFC#32 = a := by
  have h0 : a.extractLsb' 0 2 = 0 := by simpa [misaligned] using h
  apply BitVec.eq_of_getLsbD_eq
  intro k hk
  have hmask : (0xFFFFFFFC#32).getLsbD k = decide (2 ≤ k) := by interval_cases k <;> rfl
  rw [BitVec.getLsbD_and, hmask]
  by_cases h2 : 2 ≤ k
  · simp [h2]
  · have hlow : a.getLsbD k = false := by
      simpa [BitVec.getLsbD_extractLsb', show k < 2 by omega] using congrArg (fun v : BitVec 2 => v.getLsbD k) h0
    simp [hlow]

/-- An aligned word load accesses its own address. -/
theorem wordVa_of_aligned {x : Single} (s : State) (h : misaligned x.addr .word = false) : x.wordVa s = x.addr := by
  rw [Single.wordVa, and_wordMask_of_aligned h, ite_self]

/-- A word load whose address is aligned, or made so, reads the word there and rotates it by the low two bits. -/
theorem loadWord_of_aligned {x : Single} {s t : State} (hc : t.cp15 = s.cp15) (ha : misaligned (x.wordVa s) .word = false) :
    loadWord x.addr x.priv t = andThen (memRead (x.wordVa s) .word .read x.priv t) fun r =>
      .next (r.1.rotateRight (8 * (x.addr.toNat % 4)), r.2) := by
  by_cases hm : misaligned x.addr .word = true
  · have hau : s.cp15.control.getLsbD 1 = false ∧ s.cp15.control.getLsbD 22 = false := by
      by_contra hau
      rw [Single.wordVa, if_neg hau, hm] at ha
      exact absurd ha (by decide)
    have hrot : rotatedLoad x.addr t = true := by
      rw [rotatedLoad, State.alignCheck, State.unalignedAllowed, hc, hau.1, hau.2, hm]
      rfl
    rw [loadWord, if_pos hrot, Single.wordVa, if_pos hau, toNat_extractLsb'_low]
  · rw [Bool.not_eq_true] at hm
    have hva := wordVa_of_aligned s hm
    have hrot : rotatedLoad x.addr t = false := by simp [rotatedLoad, hm]
    have h0 : x.addr.toNat % 4 = 0 := (aligned_iff x.addr .word).1 hm
    rw [loadWord, if_neg (by simp [hrot]), hva, h0]
    cases memRead x.addr .word .read x.priv t with
    | next r => simp [BitVec.rotateRight, BitVec.rotateRightAux]
    | fault f => rfl
    | refused q => rfl

/-! ### Accesses that stop -/

/-- The second outcome stops wherever the first does, and for the same reason. -/
def StopsAs {α β : Type} (a : Host.Outcome α Fault Refusal) (b : Host.Outcome β Fault Refusal) : Prop :=
  (∀ f, a = .fault f → b = .fault f) ∧ ∀ q, a = .refused q → b = .refused q

theorem stopsAs_andThen {α β : Type} (a : Host.Outcome α Fault Refusal) (k : α → Host.Outcome β Fault Refusal) :
    StopsAs a (andThen a k) := by
  constructor
  · rintro f rfl
    rfl
  · rintro q rfl
    rfl

theorem StopsAs.trans {α β γ : Type} {a : Host.Outcome α Fault Refusal} {b : Host.Outcome β Fault Refusal}
    {c : Host.Outcome γ Fault Refusal} (h : StopsAs a b) (k : StopsAs b c) : StopsAs a c :=
  ⟨fun f hf => k.1 f (h.1 f hf), fun q hq => k.2 q (h.2 q hq)⟩

section
variable {va : Word} {n : Width}

/-- A misaligned access faults before translation (20_memory.md R68, R70). -/
theorem memRead_misaligned (h : va.toNat % n.bytes ≠ 0) (acc : Access) (priv : Bool) (s : State) :
    memRead va n acc priv s = raise (.alignment va n.bytes acc) s :=
  if_pos ((misaligned_iff va n).2 h)

theorem memWrite_misaligned (h : va.toNat % n.bytes ≠ 0) (v : Word) (priv : Bool) (s : State) :
    memWrite va n v priv s = raise (.alignment va n.bytes .write) s :=
  if_pos ((misaligned_iff va n).2 h)

/-- An aligned access stops where its translation does. -/
theorem stopsAs_memRead (h : misaligned va n = false) (acc : Access) (priv : Bool) (s : State) :
    StopsAs (translate va acc priv s) (memRead va n acc priv s) := by
  rw [memRead, if_neg (by simp [h])]
  exact stopsAs_andThen ..

theorem stopsAs_memWrite (h : misaligned va n = false) (v : Word) (priv : Bool) (s : State) :
    StopsAs (translate va .write priv s) (memWrite va n v priv s) := by
  rw [memWrite, if_neg (by simp [h])]
  exact stopsAs_andThen ..

end

/-- With Control.A or Control.U set, no word load is rotated (R69). -/
theorem loadWord_of_not_rotated {s : State} (h : s.cp15.control.getLsbD 1 = true ∨ s.cp15.control.getLsbD 22 = true)
    (va : Word) (priv : Bool) : loadWord va priv s = memRead va .word .read priv s := by
  have hrot : rotatedLoad va s = false := by
    rcases h with h | h
    · rw [rotatedLoad, State.alignCheck, h, Bool.not_true, Bool.and_false, Bool.false_and]
    · rw [rotatedLoad, State.unalignedAllowed, h, Bool.not_true, Bool.and_false]
  rw [loadWord, if_neg (by simp [hrot])]

/-- A fault after the write-back leaves the raw PC at the instruction (40_dispatch.md R163). -/
theorem raise_backState {α : Type} {x : Single} {s : State} {rn : Reg} (hb : x.back = true → rn ≠ 15) (r : FaultRecord) :
    (raise r (x.backState s rn) : Host.Outcome α Fault Refusal) =
      .fault (r.leaving { x.backState s rn with stop := .fault r s.pc }) := by
  rw [← (backState_halfway hb).pc]
  rfl

theorem refuse_backState {α : Type} {x : Single} {s : State} {rn : Reg} (hb : x.back = true → rn ≠ 15)
    (q : RefusalReason) :
    (refuse q (x.backState s rn) : Host.Outcome α Fault Refusal) =
      .refused (q.leaving { x.backState s rn with stop := .refusal q s.pc }) := by
  rw [← (backState_halfway hb).pc]
  rfl

/-- How a single transfer whose access faults ends, after the write-back: at alignment, but for the rotated load; else as
its translation; and a word load as the translation of the address it accesses (R68 to R70, 45_load_store.md R252). -/
def FaultsAfterBack (x : Single) (acc : Access) (s : State) (rn : Reg) : Prop :=
  (x.addr.toNat % x.width.bytes ≠ 0 →
    (acc = .read → x.width = .word → s.cp15.control.getLsbD 1 = true ∨ s.cp15.control.getLsbD 22 = true) →
    exec x.instr s = .fault (.alignment x.addr x.width.bytes acc
      { x.backState s rn with stop := .fault (.alignment x.addr x.width.bytes acc) s.pc })) ∧
  (x.addr.toNat % x.width.bytes = 0 → StopsAs (translate x.addr acc x.priv (x.backState s rn)) (exec x.instr s)) ∧
  (acc = .read → x.width = .word →
    (∀ f, translate (x.wordVa s) .read x.priv (x.backState s rn) = .fault f → misaligned (x.wordVa s) .word = false →
      exec x.instr s = .fault f) ∧
    (∀ q, translate (x.wordVa s) .read x.priv (x.backState s rn) = .refused q → misaligned (x.wordVa s) .word = false →
      exec x.instr s = .refused q))

section
variable {s : State} {c : Cond} {p u w : Bool} {rn rd rm : Reg} {off : BitVec 12} {op : RsiOp} {off8 : BitVec 8} {x : Single}
  (hc : Cond.passes c s.flags = true) (hr : x.refused = false)
include hc hr

theorem faultsAfterBack_wordLoad (hx : x ∈ wordLoads s c u w rn rd off op) : FaultsAfterBack x .read s rn := by
  obtain ⟨hw, hb, he⟩ := exec_wordLoad hc hr hx
  have hstop : misaligned (x.wordVa s) .word = false →
      StopsAs (translate (x.wordVa s) .read x.priv (x.backState s rn)) (exec x.instr s) := by
    intro ha
    rw [he, loadWord_of_aligned (backState_cp15 x s rn) ha]
    exact (stopsAs_memRead ha ..).trans ((stopsAs_andThen ..).trans (stopsAs_andThen ..))
  refine ⟨fun hm hau => ?_, fun ha => ?_, fun _ _ => ⟨fun f hf ha => (hstop ha).1 f hf, fun q hq ha => (hstop ha).2 q hq⟩⟩
  · have hau' := hau rfl hw
    rw [← backState_cp15 x s rn] at hau'
    rw [hw] at hm
    rw [he, loadWord_of_not_rotated hau', memRead_misaligned hm, raise_backState hb, hw]
    rfl
  · rw [hw] at ha
    have ha := (aligned_iff x.addr .word).2 ha
    have hva := wordVa_of_aligned s ha
    rw [hva] at hstop
    exact hstop ha

theorem faultsAfterBack_narrowLoad (hx : x ∈ byteLoads s c u w rn rd off op ++ halfLoads s c p u w rn rd off8 rm) :
    FaultsAfterBack x .read s rn := by
  obtain ⟨hw, hb, he⟩ := exec_narrowLoad hc hr hx
  refine ⟨fun hm _ => ?_, fun ha => ?_, fun _ h => absurd h hw⟩
  · rw [he, memRead_misaligned hm, raise_backState hb]
    rfl
  · rw [he]
    exact (stopsAs_memRead ((aligned_iff ..).2 ha) ..).trans (stopsAs_andThen ..)

theorem faultsAfterBack_store
    (hx : x ∈ wordStores s c u w rn rd off op ++ byteStores s c u w rn rd off op ++ halfStores s c p u w rn rd off8 rm) :
    FaultsAfterBack x .write s rn := by
  obtain ⟨hb, he⟩ : (x.back = true → rn ≠ 15) ∧ exec x.instr s =
      andThen (memWrite x.addr x.width (s.readReg rd) x.priv (x.backState s rn)) fun s' => .next s'.advance := by
    rw [List.append_assoc] at hx
    rcases List.mem_append.1 hx with hx | hx
    · exact (exec_wordStore hc hr hx).2
    · exact (exec_narrowStore hc hr hx).2
  refine ⟨fun hm _ => ?_, fun ha => ?_, fun h => absurd h (by decide)⟩
  · rw [he, memWrite_misaligned hm, raise_backState hb]
    rfl
  · rw [he]
    exact (stopsAs_memWrite ((aligned_iff ..).2 ha) ..).trans (stopsAs_andThen ..)

end

/-- Settles O39: the word loads, the narrow loads and the stores, each by the access it makes after its write-back. -/
theorem accessFaultsKeepWriteBack : Obligations.AccessFaultsKeepWriteBack := by
  intro s c p u w rn rd rm off op off8 hc y hy x t hr
  have h : FaultsAfterBack x y.2 s rn := by
    rw [List.append_assoc] at hy
    rcases List.mem_append.1 hy with hy | hy
    · obtain ⟨x, hx, rfl⟩ := List.mem_map.1 hy
      rcases List.mem_append.1 hx with hx | hx
      · exact faultsAfterBack_wordLoad hc hr hx
      · exact faultsAfterBack_narrowLoad hc hr hx
    · obtain ⟨x, hx, rfl⟩ := List.mem_map.1 hy
      exact faultsAfterBack_store hc hr hx
  exact h

/-! ### Accesses that reach a device (20_memory.md R65, R66) -/

/-- The write-back changes nothing that decides what an access reaches. -/
theorem reachesDevice_backState {s : State} {va pa : Word} {n : Width} {acc : Access} {priv : Bool} {k : Nat} {d : Device}
    (h : ReachesDevice s va n acc priv pa k d) (x : Single) (rn : Reg) :
    ReachesDevice (x.backState s rn) va n acc priv pa k d := by
  obtain ⟨ha, ht, hd⟩ := h
  exact ⟨ha, translate_congr (backState_mem x s rn) (backState_cp15 x s rn) ht,
    (deviceAt_congr (backState_params x s rn) pa).trans hd⟩

section
variable {s : State} {va pa : Word} {n : Width} {priv : Bool} {k : Nat} {d : Device}

theorem memRead_device {acc : Access} (h : ReachesDevice s va .word acc priv pa k d) :
    memRead va .word acc priv s = .next (Config.deviceRead s.draws k (pa - d.first),
      { s with draws := s.draws + 1, devLog := s.devLog ++ [.read k (pa - d.first)] }) := by
  obtain ⟨ha, ht, hd⟩ := h
  rw [memRead_eq ha ht, physRead_device hd (translate_aligned .word ht ha)]

theorem memWrite_device (h : ReachesDevice s va .word .write priv pa k d) (v : Word) :
    memWrite va .word v priv s = .next { s with devLog := s.devLog ++ [.write k (pa - d.first) v] } := by
  obtain ⟨ha, ht, hd⟩ := h
  rw [memWrite_eq ha ht, physWrite_device hd (translate_aligned .word ht ha)]

/-- A device refuses an access of less than a word. -/
theorem withDeviceWord_narrow {α : Type} (hn : n ≠ .word) (acc : Access) (k : Host.Outcome α Fault Refusal) :
    withDeviceWord pa n acc s k = refuse .subWordPeripheral s := by
  cases n with
  | byte => rfl
  | half => rfl
  | word => exact absurd rfl hn

theorem memRead_device_narrow {acc : Access} (hn : n ≠ .word) (h : ReachesDevice s va n acc priv pa k d) :
    memRead va n acc priv s = refuse .subWordPeripheral s := by
  obtain ⟨ha, ht, hd⟩ := h
  simp [memRead_eq ha ht, physRead, hd, withDeviceWord_narrow hn]

theorem memWrite_device_narrow (hn : n ≠ .word) (h : ReachesDevice s va n .write priv pa k d) (v : Word) :
    memWrite va n v priv s = refuse .subWordPeripheral s := by
  obtain ⟨ha, ht, hd⟩ := h
  simp [memWrite_eq ha ht, physWrite, hd, withDeviceWord_narrow hn]

end

section
variable {s : State} {c : Cond} {p u w : Bool} {rn rd rm : Reg} {off : BitVec 12} {op : RsiOp} {off8 : BitVec 8} {x : Single}
  (hc : Cond.passes c s.flags = true) (hr : x.refused = false) {pa : Word} {k : Nat} {d : Device}
include hc hr

theorem wordLoad_device (hx : x ∈ wordLoads s c u w rn rd off op)
    (h : ReachesDevice s (x.wordVa s) .word .read x.priv pa k d) :
    Completes x.instr s fun t =>
      Loaded x s t rn rd ((Config.deviceRead s.draws k (pa - d.first)).rotateRight (8 * (x.addr.toNat % 4))) ∧
      t.draws = s.draws + 1 ∧ t.devLog = s.devLog ++ [.read k (pa - d.first)] := by
  obtain ⟨-, hb, he⟩ := exec_wordLoad hc hr hx
  rw [loadWord_of_aligned (backState_cp15 x s rn) h.1, memRead_device (reachesDevice_backState h x rn), backState_draws,
    backState_devLog] at he
  refine ⟨_, he, loaded_finishWith hb ?_ rd _, by simp, by simp⟩
  rfl

theorem wordStore_device (hx : x ∈ wordStores s c u w rn rd off op)
    (h : ReachesDevice s x.addr .word .write x.priv pa k d) :
    Completes x.instr s fun t => Stored x s t rn ∧ SameBytes s t ∧ t.draws = s.draws ∧
      t.devLog = s.devLog ++ [.write k (pa - d.first) (s.readReg rd)] := by
  obtain ⟨hw, hb, he⟩ := exec_wordStore hc hr hx
  rw [hw, memWrite_device (reachesDevice_backState h x rn), backState_devLog] at he
  exact ⟨_, he, stored_advance hb ⟨rfl, id⟩, fun a => by simp, by simp, by simp⟩

theorem narrowLoad_device (hx : x ∈ byteLoads s c u w rn rd off op ++ halfLoads s c p u w rn rd off8 rm)
    (h : ReachesDevice s x.addr x.width .read x.priv pa k d) :
    exec x.instr s = .refused (.subWordPeripheral
      { x.backState s rn with stop := .refusal .subWordPeripheral s.pc }) := by
  obtain ⟨hw, hb, he⟩ := exec_narrowLoad hc hr hx
  rw [he, memRead_device_narrow hw (reachesDevice_backState h x rn), refuse_backState hb]
  rfl

theorem narrowStore_device (hx : x ∈ byteStores s c u w rn rd off op ++ halfStores s c p u w rn rd off8 rm)
    (h : ReachesDevice s x.addr x.width .write x.priv pa k d) :
    exec x.instr s = .refused (.subWordPeripheral
      { x.backState s rn with stop := .refusal .subWordPeripheral s.pc }) := by
  obtain ⟨hw, hb, he⟩ := exec_narrowStore hc hr hx
  rw [he, memWrite_device_narrow hw (reachesDevice_backState h x rn), refuse_backState hb]
  rfl

end

/-- Settles O40: a word reaches the device, and less than a word is refused. -/
theorem deviceTransfers : Obligations.DeviceTransfers := by
  intro s c p u w rn rd rm off op off8 pa k d hc
  refine ⟨fun x hx hr h => wordLoad_device hc hr hx h, fun x hx hr h => wordStore_device hc hr hx h, fun y hy hr h => ?_⟩
  rcases List.mem_append.1 hy with hy | hy
  · obtain ⟨x, hx, rfl⟩ := List.mem_map.1 hy
    exact narrowLoad_device hc hr hx h
  · obtain ⟨x, hx, rfl⟩ := List.mem_map.1 hy
    exact narrowStore_device hc hr hx h

end Sys2Proof.Machine
end

section
/-! PROOFS. The table read from the side of the encoder (30_encoding.md R121, R127, R128): each row reads back its instruction
from the instruction's word, and no word matches two rows, so the decoder finds that row. -/

namespace Sys2Proof

/-! ### Fields at their places -/

/-- A field meets no bit of a mask whose bits at its place are zero. -/
theorem fieldAt_and_of_extract {n : Nat} {lo : Nat} (v : BitVec n) {m : Word} (h : m.extractLsb' lo n = 0#n) :
    fieldAt lo v &&& m = 0#32 := by
  refine fieldAt_and v fun k h1 h2 => ?_
  simpa [BitVec.getLsbD_extractLsb', show k - lo < n by omega, show lo + (k - lo) = k by omega] using
    congrArg (fun x : BitVec n => x.getLsbD (k - lo)) h

theorem ofBool_beq_one (b : Bool) : (BitVec.ofBool b == 1#1) = b := by cases b <;> rfl

/-- A 16-bit immediate in two fields (BKPT). -/
theorem append_halves_16 (v : BitVec 16) : v.extractLsb' 4 12 ++ v.extractLsb' 0 4 = v :=
  BitVec.extractLsb'_append_extractLsb'

/-- An 8-bit immediate in two fields (addressing mode 3). -/
theorem append_halves_8 (v : BitVec 8) : v.extractLsb' 4 4 ++ v.extractLsb' 0 4 = v :=
  BitVec.extractLsb'_append_extractLsb'

/-! ### The row of an instruction -/

/-- The row of an instruction: the table has the instructions in the order of their constructors (R127). -/
def Instr.row (i : Instr) : Row := opcodeTable[i.ctorIdx]'(by cases i <;> exact Nat.le_of_ble_eq_true rfl)

theorem Instr.row_mem (i : Instr) : i.row ∈ opcodeTable := List.getElem_mem _

/-- The word has the row's identifying bits and should-be bits, and the row reads the instruction from it. -/
structure Row.Reads (r : Row) (w : Word) (i : Instr) : Prop where
  identifying : w &&& r.mask = r.value
  shouldBe : w &&& r.sbMask = r.sbValue
  operands : r.operands w = i

theorem Row.reads_mk {value mask sbMask sbValue w : Word} {cls : InstrClass} {operands : Word → Instr} {i : Instr}
    (h : w &&& mask = value ∧ w &&& sbMask = sbValue ∧ operands w = i) :
    Row.Reads ⟨value, mask, sbMask, sbValue, cls, operands⟩ w i :=
  ⟨h.1, h.2.1, h.2.2⟩

/-- The condition field of BKPT is a should-be field (R130). -/
theorem condBits_al : condBits .al = 0xE0000000#32 := by decide

theorem bkpt_reads_encode (imm : BitVec 16) : (Instr.bkpt .al imm).row.Reads (encode (.bkpt .al imm)) (.bkpt .al imm) := by
  refine Row.reads_mk ?_
  have hal : condAt (bkptWord 0x01200070 .al imm) = .al := by
    rw [condAt, Laws.F.bkptWord_cond (by decide), Cond.ofBits_bits, Option.getD_some]
  simp only [encode, bkptOf, hal]
  simp only [bkptWord, condBits_al, BitVec.and_or_distrib_right, fieldAt_and_of_extract, BitVec.extractLsb'_or,
    extract_fieldAt, extract_fieldAt_ne, append_halves_16, Nat.reduceAdd, Nat.reduceLeDiff, or_true, true_or,
    BitVec.reduceExtractLsb', BitVec.reduceAnd, BitVec.reduceOr, BitVec.or_zero, BitVec.zero_or, BitVec.ofNat_eq_ofNat,
    and_self]

/-- Every row reads back the instruction from its word: each field stands at its own place, outside the row's masks. -/
theorem row_reads_encode {i : Instr} (h : i.wellFormed = true) : i.row.Reads (encode i) i := by
  cases i with
  | bkpt c imm =>
    obtain rfl : c = .al := by simpa [Instr.wellFormed] using h
    exact bkpt_reads_encode imm
  | _ =>
    refine Row.reads_mk ?_
    simp only [encode, mrsWord, msrRegWord, msrImmWord, bxWord, clzWord, mulWord, mlaWord, mullWord, swpWord, halfImmWord,
      halfRegWord, dpImmWord, dpRsiWord, dpRsrWord, cmpImmWord, cmpRsiWord, cmpRsrWord, movImmWord, movRsiWord,
      movRsrWord, lsImmPreWord, lsImmPostWord, lsRegPreWord, lsRegPostWord, block16Word, block15Word, branchWord,
      coprocWord, swiWord, condBits, bitAt, regField, puwWord, ImmOp.word, RsiOp.word, RsrOp.word]
    simp only [mrsOf, msrRegOf, msrImmOf, bxOf, clzOf, mulOf, mlaOf, mullOf, swpOf, halfImmOf, halfRegOf, dpImmOf,
      dpRsiOf, dpRsrOf, cmpImmOf, cmpRsiOf, cmpRsrOf, movImmOf, movRsiOf, movRsrOf, lsImmPreOf, lsImmPostOf,
      lsRegPreOf, lsRegPostOf, block16Of, block15Of, branchOf, coprocOf, swiOf, condAt, condField, regAt, immOpAt,
      rsiOpAt, rsrOpAt, BitVec.getLsbD_eq_extractLsb']
    simp only [BitVec.extractLsb'_or, extract_fieldAt, extract_fieldAt_ne, BitVec.and_or_distrib_right,
      fieldAt_and_of_extract, BitVec.and_zero, Cond.ofBits_bits, Option.getD_some, Reg.toFin_bits, Shift.ofBits_bits,
      ofBool_beq_one, append_halves_8, Nat.reduceAdd, Nat.reduceLeDiff, or_true, true_or, BitVec.reduceExtractLsb',
      BitVec.reduceAnd, BitVec.reduceOr, BitVec.or_zero, BitVec.zero_or, BitVec.ofNat_eq_ofNat, and_self]

/-! ### No word of two rows -/

/-- Two rows ask for different values of a bit that both look at. -/
def Row.Clash (r q : Row) : Prop := r.value &&& q.mask ≠ q.value &&& r.mask

theorem Row.Clash.not_both {r q : Row} (h : r.Clash q) (w : Word) : ¬(r.matches w = true ∧ q.matches w = true) := by
  rw [Row.matches_iff, Row.matches_iff]
  rintro ⟨hr, hq⟩
  refine h ?_
  rw [← hr, ← hq, BitVec.and_assoc, BitVec.and_assoc, BitVec.and_comm r.mask]

theorem opcodeTable_clash : opcodeTable.Pairwise Row.Clash := by
  unfold Row.Clash
  decide

/-- In a list of which no two elements pass a test together, the search finds the one that passes it. -/
theorem find?_eq_some_of_pairwise {α : Type} {p : α → Bool} {l : List α}
    (hl : l.Pairwise fun a b => ¬(p a = true ∧ p b = true)) {a : α} (ha : a ∈ l) (hp : p a = true) :
    l.find? p = some a := by
  induction l with
  | nil => cases ha
  | cons b l ih =>
    obtain ⟨hb, hl⟩ := List.pairwise_cons.1 hl
    rcases List.mem_cons.1 ha with rfl | ha
    · exact List.find?_cons_of_pos hp
    · rw [List.find?_cons_of_neg fun hpb => hb a ha ⟨hpb, hp⟩]
      exact ih hl ha

/-! ### The condition of an instruction and of its word -/

/-- The condition field of an instruction's word is that of its condition. -/
theorem condField_encode (i : Instr) : condField (encode i) = i.cond.bits := by
  cases i with
  | mrs => exact mrsWord_cond (by decide) ..
  | msrReg => exact msrRegWord_cond (by decide) ..
  | msrImm => exact msrImmWord_cond (by decide) ..
  | bx | blxReg => exact bxWord_cond (by decide) ..
  | clz => exact clzWord_cond (by decide) ..
  | bkpt => exact Laws.F.bkpt ..
  | mul => exact mulWord_cond (by decide) ..
  | mla => exact mlaWord_cond (by decide) ..
  | umull | umlal | smull | smlal => exact mullWord_cond (by decide) ..
  | swp | swpb => exact swpWord_cond (by decide) ..
  | strhImm | ldrhImm | ldrsbImm | ldrshImm => exact halfImmWord_cond (by decide) ..
  | strhReg | ldrhReg | ldrsbReg | ldrshReg => exact halfRegWord_cond (by decide) ..
  | andImm | eorImm | subImm | rsbImm | addImm | adcImm | sbcImm | rscImm | orrImm | bicImm =>
    exact dpImmWord_cond (by decide) ..
  | andRsi | eorRsi | subRsi | rsbRsi | addRsi | adcRsi | sbcRsi | rscRsi | orrRsi | bicRsi =>
    exact dpRsiWord_cond (by decide) ..
  | andRsr | eorRsr | subRsr | rsbRsr | addRsr | adcRsr | sbcRsr | rscRsr | orrRsr | bicRsr =>
    exact dpRsrWord_cond (by decide) ..
  | tstImm | teqImm | cmpImm | cmnImm => exact cmpImmWord_cond (by decide) ..
  | tstRsi | teqRsi | cmpRsi | cmnRsi => exact cmpRsiWord_cond (by decide) ..
  | tstRsr | teqRsr | cmpRsr | cmnRsr => exact cmpRsrWord_cond (by decide) ..
  | movImm | mvnImm => exact movImmWord_cond (by decide) ..
  | movRsi | mvnRsi => exact movRsiWord_cond (by decide) ..
  | movRsr | mvnRsr => exact movRsrWord_cond (by decide) ..
  | strImmPre | ldrImmPre | strbImmPre | ldrbImmPre => exact lsImmPreWord_cond (by decide) ..
  | strRegPre | ldrRegPre | strbRegPre | ldrbRegPre => exact lsRegPreWord_cond (by decide) ..
  | strImmPost | strtImm | ldrImmPost | ldrtImm | strbImmPost | strbtImm | ldrbImmPost | ldrbtImm =>
    exact lsImmPostWord_cond (by decide) ..
  | strRegPost | strtReg | ldrRegPost | ldrtReg | strbRegPost | strbtReg | ldrbRegPost | ldrbtReg =>
    exact lsRegPostWord_cond (by decide) ..
  | stm1 | stm2 | ldm1 => exact block16Word_cond (by decide) ..
  | ldm2 | ldm3 => exact block15Word_cond (by decide) ..
  | b | bl => exact branchWord_cond (by decide) ..
  | mcr | mrc => exact coprocWord_cond (by decide) ..
  | swi => exact swiWord_cond (by decide) ..

/-- Every row reads the condition from bits 31:28 (R121). -/
theorem cond_operands (w : Word) : ∀ r ∈ opcodeTable, (r.operands w).cond = condAt w := by
  rw [← List.forall_iff_forall_mem]
  repeat' constructor

/-- An instruction has the condition of the word it was decoded from. -/
theorem cond_of_decode {w : Word} {i : Instr} (h : decode w = .instr i) : i.cond = condAt w := by
  obtain ⟨-, r, hr, -, -, rfl⟩ := decode_instr h
  exact cond_operands w r hr

/-! ### The decoder on an instruction's word -/

/-- A well-formed instruction is what its word decodes to. -/
theorem decode_encode {i : Instr} (h : i.wellFormed = true) : decode (encode i) = .instr i := by
  obtain ⟨hid, hsb, hop⟩ := row_reads_encode h
  have hfind : opcodeTable.find? (fun r => r.matches (encode i)) = some i.row :=
    find?_eq_some_of_pairwise (opcodeTable_clash.imp fun hc => hc.not_both _) i.row_mem ((Row.matches_iff ..).2 hid)
  have hcond : condField (encode i) ≠ 0b1111#4 := by
    rw [condField_encode]
    exact i.cond.bits_ne_reserved
  rw [decode_of_find hcond hfind ((Row.shouldBeOk_iff ..).2 hsb), hop]

end Sys2Proof
end

section
/-! PROOFS. The tick that fetches an instruction's word runs the instruction (40_dispatch.md R150 to R157), and so the word
last stored at the raw PC is what the next step runs (20_memory.md R102, 70_reset_and_hazards.md R363). -/

namespace Sys2Proof.Machine

/-- An instruction whose condition fails only advances the PC (R154). -/
theorem exec_of_failed {i : Instr} {s : State} (h : Cond.passes i.cond s.flags = false) : exec i s = .next s.advance := by
  unfold exec
  cases i <;> exact whenPassed_fail h _

/-- A word that decodes to an instruction of an implemented class runs it: skipped where its condition fails. -/
theorem runWord_of_decode {w : Word} {i : Instr} {s : State} (hd : decode w = .instr i)
    (hi : implemented s.params.extra i.cls = true) : runWord w s = exec i s := by
  obtain ⟨hc, -⟩ := decode_instr hd
  rw [runWord, if_neg (by simpa using hc), ← cond_of_decode hd]
  cases hp : Cond.passes i.cond s.flags with
  | true => simp [runDecoded, hd, hi]
  | false => simp [exec_of_failed hp]

/-- A running core whose fetch answers the word of an instruction of an implemented class runs it (R150). -/
theorem step_of_fetch {s s' : State} {w : Word} {i : Instr} (hrun : s.stop = .running) (hf : fetch s = .next (w, s'))
    (hd : decode w = .instr i) (hi : implemented s'.params.extra i.cls = true) : step s = exec i s' := by
  rw [step, tick, hrun, hf]
  exact runWord_of_decode hd hi

/-- With the MMU off a fetch loads the word at the raw PC (20_memory.md R71). -/
theorem fetch_of_mmu_off {s : State} (h : s.mmuOn = false) (ha : misaligned s.pc .word = false)
    (hd : s.deviceAt s.pc = none) : fetch s = .next (s.mem.load s.pc .word, s) :=
  memRead_memory ha (translate_off h ..) hd

/-- With the MMU off the word is placed at the raw PC. -/
theorem withFetchWord_encode {s : State} (h : s.mmuOn = false) (i : Instr) :
    s.withFetchWord 32 (encode i).toNat = { s with mem := s.mem.store s.pc (encode i) .word } := by
  have hw : BitVec.ofNat 32 ((encode i).toNat % 2 ^ 32) = encode i := by
    rw [Nat.mod_eq_of_lt (encode i).isLt, BitVec.ofNat_toNat, BitVec.setWidth_eq]
  rw [State.withFetchWord, hw, placeWord, fetchAddr, translate_off h]

/-- Settles O8: the fetch loads the word just stored, which decodes to the instruction. -/
theorem placedWordRuns : Obligations.PlacedWordRuns := by
  intro s i hrun hwf hmmu ha hd hi himpl
  rw [withFetchWord_encode hmmu]
  have hfetch := fetch_of_mmu_off (s := { s with mem := s.mem.store s.pc (encode i) .word }) hmmu ha hd
  rw [Memory.load_store_word hwf] at hfetch
  exact step_of_fetch hrun hfetch (decode_encode hi) himpl

end Sys2Proof.Machine
end

section
/-! PROOFS. The table read from the side of the decoder (30_encoding.md R122, R127, R130): what the rows read from a word,
put back at its places, is the word again, so an instruction that a word decodes to has that word. -/

namespace Sys2Proof

/-! ### A field read from a word and put back -/

/-- A field of a word, put back at its place, is what the word has there. -/
theorem fieldAt_extract {n lo : Nat} (w : Word) :
    fieldAt lo (w.extractLsb' lo n) = w &&& fieldAt lo (BitVec.allOnes n) := by
  apply BitVec.eq_of_getLsbD_eq
  intro k hk
  rw [BitVec.getLsbD_and, fieldAt_getLsbD, fieldAt_getLsbD, BitVec.getLsbD_extractLsb', BitVec.getLsbD_allOnes]
  by_cases h : lo ≤ k
  · simp [h, hk, show lo + (k - lo) = k by omega, Bool.and_comm]
  · simp [h]

theorem Cond.bits_condAt {w : Word} (h : condField w ≠ 0b1111#4) : (condAt w).bits = w.extractLsb' 28 4 := by
  obtain ⟨c, hc⟩ := Cond.exists_bits h
  rw [condAt, ← hc, Cond.ofBits_bits, Option.getD_some, hc, condField]

theorem Reg.bits_toFin (v : BitVec 4) : Reg.bits v.toFin = v := rfl

theorem ofBool_getLsbD (w : Word) (k : Nat) : BitVec.ofBool (w.getLsbD k) = w.extractLsb' k 1 := by
  refine BitVec.eq_of_getLsbD_eq fun j hj => ?_
  obtain rfl : j = 0 := by omega
  simp

/-! ### The word of what a row reads -/

/-- The word of what a row reads: the row's identifying bits, its should-be bits below the condition, and every other bit
as the word has it. The condition counts as a field in BKPT too, whose should-be field it is (R130). -/
theorem encode_operands {w : Word} (h : condField w ≠ 0b1111#4) : ∀ r ∈ opcodeTable,
    encode (r.operands w) = r.value ||| (r.sbValue &&& 0x0FFFFFFF#32) |||
      (w &&& ~~~(r.mask ||| (r.sbMask &&& 0x0FFFFFFF#32))) := by
  rw [← List.forall_iff_forall_mem]
  simp only [opcodeTable, miscRows, multiplyRows, halfwordRows, msrImmRow, dpRows1, dpRows2, singleRows, blockRows,
    branchRows, List.cons_append, List.nil_append, List.Forall]
  simp only [mrsOf, msrRegOf, msrImmOf, bxOf, clzOf, bkptOf, mulOf, mlaOf, mullOf, swpOf, halfImmOf, halfRegOf, dpImmOf,
    dpRsiOf, dpRsrOf, cmpImmOf, cmpRsiOf, cmpRsrOf, movImmOf, movRsiOf, movRsrOf, lsImmPreOf, lsImmPostOf, lsRegPreOf,
    lsRegPostOf, block16Of, block15Of, branchOf, coprocOf, swiOf, regAt, immOpAt, rsiOpAt, rsrOpAt]
  simp only [encode, mrsWord, msrRegWord, msrImmWord, bxWord, clzWord, bkptWord, mulWord, mlaWord, mullWord, swpWord,
    halfImmWord, halfRegWord, dpImmWord, dpRsiWord, dpRsrWord, cmpImmWord, cmpRsiWord, cmpRsrWord, movImmWord,
    movRsiWord, movRsrWord, lsImmPreWord, lsImmPostWord, lsRegPreWord, lsRegPostWord, block16Word, block15Word,
    branchWord, coprocWord, swiWord, condBits, bitAt, regField, puwWord, ImmOp.word, RsiOp.word, RsrOp.word]
  simp only [Cond.bits_condAt h, Reg.bits_toFin, ofBool_getLsbD, Shift.bits_ofBits,
    BitVec.extractLsb'_append_eq_left (w := 12) (w' := 4), BitVec.extractLsb'_append_eq_right (w := 12) (w' := 4),
    BitVec.extractLsb'_append_eq_left (w := 4) (w' := 4), BitVec.extractLsb'_append_eq_right (w := 4) (w' := 4),
    fieldAt_extract]
  simp only [fieldAt, BitVec.reduceAllOnes, BitVec.reduceSetWidth, BitVec.reduceHShiftLeft, BitVec.reduceOr, BitVec.or_assoc,
    ← BitVec.and_or_distrib_left, BitVec.ofNat_eq_ofNat, BitVec.reduceAnd, BitVec.reduceNot, BitVec.zero_or, and_self]

/-- What a word has under two masks, and what it has outside both, make up the word. -/
theorem or_and_not_of_and {w m₁ m₂ v₁ v₂ : Word} (h₁ : w &&& m₁ = v₁) (h₂ : w &&& m₂ = v₂) :
    v₁ ||| v₂ ||| (w &&& ~~~(m₁ ||| m₂)) = w := by
  rw [← h₁, ← h₂, ← BitVec.and_or_distrib_left, ← BitVec.and_or_distrib_left, BitVec.or_not_self, BitVec.and_allOnes]

/-- A word that matches a row and has its should-be bits is the word of what the row reads. -/
theorem encode_operands_of_matches {w : Word} {r : Row} (hc : condField w ≠ 0b1111#4) (hr : r ∈ opcodeTable)
    (hm : w &&& r.mask = r.value) (hs : w &&& r.sbMask = r.sbValue) : encode (r.operands w) = w := by
  rw [encode_operands hc r hr]
  exact or_and_not_of_and hm (by rw [← BitVec.and_assoc, hs])

/-! ### What a row reads is well-formed -/

/-- Every row is the row of what it reads: the table has the rows in the order of the constructors (R127). -/
theorem row_operands (w : Word) : ∀ r ∈ opcodeTable, (r.operands w).row = r := by
  rw [← List.forall_iff_forall_mem]
  repeat' constructor

theorem condAt_of_and_top {w : Word} (h : w &&& 0xF0000000#32 = 0xE0000000#32) : condAt w = .al := by
  have hc : condField (w &&& 0xF0000000#32) = 14#4 := by rw [h]; decide
  have hw : condField w = 14#4 := by
    rwa [condField, BitVec.extractLsb'_and, show (0xF0000000#32).extractLsb' 28 4 = BitVec.allOnes 4 by decide,
      BitVec.and_allOnes] at hc
  rw [condAt, hw]
  rfl

/-- What a row reads from a word with its should-be bits is well-formed: the condition of BKPT is among them. -/
theorem wellFormed_operands {w : Word} {r : Row} (hr : r ∈ opcodeTable) (hs : w &&& r.sbMask = r.sbValue) :
    (r.operands w).wellFormed = true := by
  have hrow := row_operands w r hr
  have hcond := cond_operands w r hr
  cases hi : r.operands w with
  | bkpt c imm =>
    rw [hi] at hrow hcond
    subst hrow
    have hal : c = .al := hcond.trans (condAt_of_and_top hs)
    simp [Instr.wellFormed, hal]
  | _ => rfl

/-! ### The obligations -/

/-- Settles O3: the row that read the instruction has fixed every bit it did not read. -/
theorem encodeOfDecode : Obligations.EncodeOfDecode := by
  intro w i h
  obtain ⟨hc, r, hr, hm, hs, rfl⟩ := decode_instr h
  rw [Row.matches_iff] at hm
  rw [Row.shouldBeOk_iff] at hs
  exact ⟨encode_operands_of_matches hc hr hm hs, wellFormed_operands hr hs⟩

/-- Settles O2: the row of the instruction reads it back, and no earlier row takes the word. -/
theorem decodeOfEncode : Obligations.DecodeOfEncode := fun _ => decode_encode

/-- Settles O1: the decoder evaluated on each word. -/
theorem decodesSpecWords : Obligations.DecodesSpecWords := by
  unfold Obligations.DecodesSpecWords
  decide

end Sys2Proof
end

section
/-! PROOFS. The words that match no row (30_encoding.md R126, R131): the rows and the undefined spaces as patterns of bits,
and a case tree over bits 27:20, 7:4 and 15 in which each leaf lies on one side only. -/

namespace Sys2Proof

/-! ### Patterns of bits -/

/-- What a word is asked to have: numbers of bits, each with its value. -/
abbrev Pattern := List (Nat × Bool)

namespace Pattern

/-- The word has the bits of the pattern. -/
def Holds (p : Pattern) (w : Word) : Prop := ∀ x ∈ p, w.getLsbD x.1 = x.2

/-- The pattern of a field with the value v from bit `lo` up. -/
def field {n : Nat} (lo : Nat) (v : BitVec n) : Pattern := (List.range n).map fun j => (lo + j, v.getLsbD j)

/-- What is left to ask of a word whose bit k is b; none where the pattern asks for the other value. -/
def fix (k : Nat) (b : Bool) (p : Pattern) : Option Pattern :=
  if (k, !b) ∈ p then none else some (p.filter (·.1 ≠ k))

/-- Every pattern of one side is refuted, and a pattern of the other side has nothing left to ask. -/
def decided (ps qs : List Pattern) : Bool := (ps.isEmpty && qs.contains []) || (ps.contains [] && qs.isEmpty)

/-- A case split along the bits ks comes to decided leaves. -/
def separate : List Nat → List Pattern → List Pattern → Bool
  | [], ps, qs => decided ps qs
  | k :: ks, ps, qs => decided ps qs ||
    (separate ks (ps.filterMap (fix k false)) (qs.filterMap (fix k false)) &&
      separate ks (ps.filterMap (fix k true)) (qs.filterMap (fix k true)))

@[simp] theorem holds_nil (w : Word) : Holds [] w := by simp [Holds]

@[simp] theorem holds_cons (x : Nat × Bool) (p : Pattern) (w : Word) :
    Holds (x :: p) w ↔ w.getLsbD x.1 = x.2 ∧ Holds p w :=
  List.forall_mem_cons

@[simp] theorem holds_append (p q : Pattern) (w : Word) : Holds (p ++ q) w ↔ Holds p w ∧ Holds q w :=
  List.forall_mem_append

@[simp] theorem holds_field {n : Nat} (lo : Nat) (v : BitVec n) (w : Word) :
    Holds (field lo v) w ↔ w.extractLsb' lo n = v := by
  constructor
  · intro h
    refine BitVec.eq_of_getLsbD_eq fun j hj => ?_
    simpa [BitVec.getLsbD_extractLsb', hj] using h _ (List.mem_map_of_mem (List.mem_range.2 hj))
  · rintro rfl x hx
    obtain ⟨j, hj, rfl⟩ := List.mem_map.1 hx
    simp [List.mem_range.1 hj]

theorem exists_holds_append (ps qs : List Pattern) (w : Word) :
    (∃ p ∈ ps ++ qs, p.Holds w) ↔ (∃ p ∈ ps, p.Holds w) ∨ ∃ p ∈ qs, p.Holds w := by
  simp only [List.mem_append, or_and_right, exists_or]

/-- A word has a pattern exactly when the pattern does not ask for the other value of one bit and the word has the rest. -/
theorem holds_fix {k : Nat} {p : Pattern} {w : Word} :
    (∃ q, p.fix k (w.getLsbD k) = some q ∧ q.Holds w) ↔ p.Holds w := by
  unfold fix
  split
  · rename_i hk
    simp only [reduceCtorEq, false_and, exists_false, false_iff]
    intro h
    simpa using h _ hk
  · rename_i hk
    simp only [Option.some.injEq, exists_eq_left']
    refine ⟨fun h x hx => ?_, fun h x hx => h x (List.mem_filter.1 hx).1⟩
    by_cases hxk : x.1 = k
    · have : x.2 ≠ !w.getLsbD k := fun hb => hk (by rwa [← hb, ← hxk])
      rw [hxk]
      simpa using this.symm
    · exact h x (List.mem_filter.2 ⟨hx, by simpa using hxk⟩)

theorem exists_holds_fix (k : Nat) (ps : List Pattern) (w : Word) :
    (∃ p ∈ ps.filterMap (fix k (w.getLsbD k)), p.Holds w) ↔ ∃ p ∈ ps, p.Holds w := by
  constructor
  · rintro ⟨q, hq, h⟩
    obtain ⟨p, hp, hpq⟩ := List.mem_filterMap.1 hq
    exact ⟨p, hp, holds_fix.1 ⟨q, hpq, h⟩⟩
  · rintro ⟨p, hp, h⟩
    obtain ⟨q, hpq, hq⟩ := holds_fix.2 h
    exact ⟨q, List.mem_filterMap.2 ⟨p, hp, hpq⟩, hq⟩

theorem decided_sound {ps qs : List Pattern} (h : decided ps qs = true) (w : Word) :
    (∃ p ∈ ps, p.Holds w) ↔ ¬∃ q ∈ qs, q.Holds w := by
  simp only [decided, Bool.or_eq_true, Bool.and_eq_true, List.isEmpty_iff, List.contains_iff_mem] at h
  rcases h with ⟨rfl, hq⟩ | ⟨hp, rfl⟩
  · simpa using ⟨[], hq, holds_nil w⟩
  · simpa using ⟨[], hp, holds_nil w⟩

/-- When the case tree separates two lists of patterns, every word has a pattern of exactly one of them. -/
theorem separate_sound {ks : List Nat} {ps qs : List Pattern} (h : separate ks ps qs = true) (w : Word) :
    (∃ p ∈ ps, p.Holds w) ↔ ¬∃ q ∈ qs, q.Holds w := by
  induction ks generalizing ps qs with
  | nil => exact decided_sound h w
  | cons k ks ih =>
    rcases Bool.or_eq_true_iff.1 h with h | h
    · exact decided_sound h w
    · obtain ⟨hf, ht⟩ := Bool.and_eq_true_iff.1 h
      rw [← exists_holds_fix k ps, ← exists_holds_fix k qs]
      cases w.getLsbD k with
      | false => exact ih hf
      | true => exact ih ht

end Pattern

/-! ### The rows as patterns -/

/-- The identifying bits of a row (R127). -/
def Row.pattern (r : Row) : Pattern := ((List.range 32).filter r.mask.getLsbD).map fun k => (k, r.value.getLsbD k)

theorem opcodeTable_value_and_mask : ∀ r ∈ opcodeTable, r.value &&& r.mask = r.value := by decide

theorem Row.holds_pattern {r : Row} (hr : r ∈ opcodeTable) (w : Word) : r.pattern.Holds w ↔ r.matches w = true := by
  have hbit (k : Nat) : (r.mask.getLsbD k = true → w.getLsbD k = r.value.getLsbD k) ↔
      (w &&& r.mask).getLsbD k = r.value.getLsbD k := by
    rw [← opcodeTable_value_and_mask r hr, BitVec.getLsbD_and, BitVec.getLsbD_and]
    cases r.mask.getLsbD k <;> simp
  rw [Row.matches_iff, BitVec.eq_of_getLsbD_eq_iff]
  simp only [Row.pattern, Pattern.Holds, List.forall_mem_map, List.mem_filter, List.mem_range, and_imp]
  exact forall₂_congr fun k _ => hbit k

/-! ### The undefined spaces as patterns -/

open Pattern

/-- Every value of a field. -/
def fieldValues (n : Nat) : List (BitVec n) := (List.range (2 ^ n)).map (BitVec.ofNat n)

@[simp] theorem mem_fieldValues {n : Nat} (v : BitVec n) : v ∈ fieldValues n :=
  List.mem_map.2 ⟨v.toNat, List.mem_range.2 v.isLt, by simp⟩

/-- LDC and STC, CDP, the media space, the gap beside MSR immediate, LDRD and STRD. -/
def formatPatterns : List Pattern :=
  [field 25 0b110#3,
   field 25 0b111#3 ++ [(24, false), (4, false)],
   field 25 0b011#3 ++ [(4, true)],
   field 23 0b00110#5 ++ field 20 0b00#2,
   field 25 0b000#3 ++ [(7, true), (6, true), (4, true), (20, false)]]

/-- The multiply space outside the multiplies and the swaps. -/
def multiplyPatterns : List Pattern :=
  [field 4 0b1001#4 ++ field 22 0b000001#6] ++
    ((fieldValues 2).filter (· ≠ 0b00)).map (fun op => field 4 0b1001#4 ++ field 23 0b00010#5 ++ field 20 op) ++
    [field 4 0b1001#4 ++ field 23 0b00011#5]

/-- Bits 22:21 and 7:4 of a word of the miscellaneous space that no row has. -/
abbrev MiscGap (op : BitVec 2) (low : BitVec 4) : Prop :=
  (low.getLsbD 0 = false ∨ low.getLsbD 3 = false) ∧ low ≠ 0 ∧ ¬(op = 1 ∧ (low = 1 ∨ low = 3 ∨ low = 7)) ∧
    ¬(op = 3 ∧ low = 1)

/-- The miscellaneous space outside MRS, MSR, BX, BLX, CLZ and BKPT. -/
def miscPatterns : List Pattern :=
  (((fieldValues 2).product (fieldValues 4)).filter fun x => MiscGap x.1 x.2).map fun x =>
    field 23 0b00010#5 ++ [(20, false)] ++ field 21 x.1 ++ field 4 x.2

/-- The spaces of R126 and R131 in the order in which `UndefinedSpace` lists them. -/
def undefinedPatterns : List Pattern := formatPatterns ++ multiplyPatterns ++ miscPatterns

theorem exists_multiplyPatterns (w : Word) : (∃ p ∈ multiplyPatterns, p.Holds w) ↔
    w.extractLsb' 4 4 = 0b1001#4 ∧ (w.extractLsb' 22 6 = 0b000001#6 ∨
      (w.extractLsb' 23 5 = 0b00010#5 ∧ w.extractLsb' 20 2 ≠ 0b00#2) ∨ w.extractLsb' 23 5 = 0b00011#5) := by
  simp [multiplyPatterns, exists_or, and_or_left, and_comm, and_left_comm]

theorem exists_miscPatterns (w : Word) : (∃ p ∈ miscPatterns, p.Holds w) ↔
    w.extractLsb' 23 5 = 0b00010#5 ∧ w.getLsbD 20 = false ∧ MiscGap (w.extractLsb' 21 2) (w.extractLsb' 4 4) := by
  simp only [miscPatterns, List.mem_map, List.mem_filter, exists_exists_and_eq_and, holds_append, holds_field, holds_cons,
    holds_nil, decide_eq_true_eq]
  constructor
  · rintro ⟨⟨op, low⟩, ⟨-, hgap⟩, ⟨⟨h23, h20, -⟩, rfl⟩, rfl⟩
    exact ⟨h23, h20, hgap⟩
  · rintro ⟨h23, h20, hgap⟩
    exact ⟨(w.extractLsb' 21 2, w.extractLsb' 4 4),
      ⟨List.mem_product.2 ⟨mem_fieldValues _, mem_fieldValues _⟩, hgap⟩, ⟨⟨h23, h20, trivial⟩, rfl⟩, rfl⟩

theorem undefinedSpace_iff (w : Word) : Claims.UndefinedSpace w ↔ ∃ p ∈ undefinedPatterns, p.Holds w := by
  rw [undefinedPatterns, exists_holds_append, exists_holds_append, exists_multiplyPatterns, exists_miscPatterns]
  simp [Claims.UndefinedSpace, formatPatterns, MiscGap, or_assoc]

/-- Bits 27:20, 7:4 and 15 tell the rows and the undefined spaces apart, and no word is on neither side. -/
theorem separate_opcodeTable : separate [27, 26, 25, 24, 23, 22, 21, 20, 7, 4, 6, 5, 15]
    (opcodeTable.map Row.pattern) undefinedPatterns = true := by
  decide

/-! ### The words of no row -/

/-- A word whose condition is not reserved decodes to no row exactly when it matches none (R155). -/
theorem decode_noRow_iff {w : Word} (hc : condField w ≠ 0b1111#4) :
    decode w = .noRow ↔ ¬∃ r ∈ opcodeTable, r.matches w = true := by
  rw [decode, if_neg (by simpa using hc)]
  cases hf : opcodeTable.find? (fun r => r.matches w) with
  | none => simpa using hf
  | some r =>
    have hr : ∃ r ∈ opcodeTable, r.matches w = true :=
      ⟨r, List.mem_of_find?_eq_some hf, by simpa using List.find?_some hf⟩
    cases hs : r.shouldBeOk w <;> simp [hr, hs]

/-- Settles O5: each word has the pattern of a row or of an undefined space, and never of both. -/
theorem undefinedSpaces : Obligations.UndefinedSpaces := by
  intro w hc
  have hrows : (∃ p ∈ opcodeTable.map Row.pattern, p.Holds w) ↔ ∃ r ∈ opcodeTable, r.matches w = true := by
    simp only [List.mem_map, exists_exists_and_eq_and]
    exact exists_congr fun r => and_congr_right fun hr => Row.holds_pattern hr w
  rw [decode_noRow_iff hc, undefinedSpace_iff, ← hrows, separate_sound separate_opcodeTable, not_not]

end Sys2Proof
end

section
/-! PROOFS. The tick (40_dispatch.md R150 to R157, R163): the condition table, what a fetched word does, what a step that stops
leaves, and that the order of the rows decides no word. -/

namespace Sys2Proof.Machine

open Sys2Proof.Claims

/-! ### The table -/

/-- Settles O4: any two rows ask for different values of a bit that both look at. -/
theorem rowsDisjoint : Obligations.RowsDisjoint :=
  ⟨rfl, opcodeTable_clash.imp fun h => h.not_both⟩

/-! ### Conditions -/

/-- A condition field is that of the condition it stands for (30_encoding.md R121). -/
theorem Cond.bits_of_ofBits {b : BitVec 4} {c : Cond} (h : Cond.ofBits b = some c) : c.bits = b := by
  have hb : b ≠ 0b1111#4 := by
    rintro rfl
    cases h
  obtain ⟨d, rfl⟩ := Cond.exists_bits hb
  rw [Cond.ofBits_bits, Option.some.injEq] at h
  rw [h]

/-- Settles O12, one condition after the other. -/
theorem conditionTable : Obligations.ConditionTable := by
  intro p n z c v b k hk
  obtain rfl := Cond.bits_of_ofBits hk
  cases k <;> simp [Cond.bits, Cond.passes, flagsOf, n, z, c, v]

theorem condAt_of_condField {w : Word} {c : Cond} (h : condField w = c.bits) : condAt w = c := by
  rw [condAt, h, Cond.ofBits_bits, Option.getD_some]

/-- Settles O11. -/
theorem failedConditionSkips : Obligations.FailedConditionSkips := fun _ _ h => exec_of_failed h

/-! ### What a fetched word does -/

section
variable {w : Word} {s : State}

theorem runWord_of_reserved (h : condField w = 0b1111#4) : runWord w s = raise (.reservedCondition w s.pc) s := by
  simp [runWord, h]

/-- A word under a condition is looked up where the condition passes, and else skipped (R154). -/
theorem runWord_of_cond {c : Cond} (h : condField w = c.bits) :
    runWord w s = if Cond.passes c s.flags = true then runDecoded w s else .next s.advance := by
  have hc : condField w ≠ 0b1111#4 := h ▸ c.bits_ne_reserved
  simp [runWord, hc, condAt_of_condField h]

/-- A word that is no instruction of the core: it matches no row, or its row is of an absent class (R155, R157). -/
theorem runDecoded_of_undefined (h : decode w = .noRow ∨
      (∃ i, decode w = .instr i ∧ implemented s.params.extra i.cls = false) ∨
      ∃ k, decode w = .shouldBeField k ∧ implemented s.params.extra k = false) :
    runDecoded w s = raise (.undefinedInstruction w s.pc) s := by
  rcases h with hd | ⟨i, hd, hi⟩ | ⟨k, hd, hk⟩
  · simp [runDecoded, hd]
  · simp [runDecoded, hd, hi]
  · simp [runDecoded, hd, hk]

/-- A word of an implemented class with a wrong should-be field (R156). -/
theorem runDecoded_of_shouldBeField {k : InstrClass} (hd : decode w = .shouldBeField k)
    (hk : implemented s.params.extra k = true) : runDecoded w s = refuse .shouldBeField s := by
  simp [runDecoded, hd, hk]

end

/-! ### A step -/

/-- A fetch that answers changes nothing but the record of the devices. -/
theorem sameButDevices_of_fetch {s s' : State} {w : Word} (h : fetch s = .next (w, s')) : SameButDevices s s' := by
  have hends := ends_fetch s
  rw [h] at hends
  exact hends

/-- The step of a running core does what the fetched word does (R150). -/
theorem step_eq_runWord {s s' : State} {w : Word} (hrun : s.stop = .running) (hf : fetch s = .next (w, s')) :
    step s = runWord w s' := by
  rw [step, tick, hrun, hf, andThen_next]

theorem step_of_stopped {s : State} (h : s.stop ≠ .running) : step s = .next s := by
  unfold step tick
  split
  · exact absurd ‹_› h
  · rfl

/-- Settles O9. -/
theorem stoppedCoreUnchanged : Obligations.StoppedCoreUnchanged := fun _ => step_of_stopped

/-- Settles O6: the fetch keeps the parameters, so the class is implemented in the state after it. -/
theorem stepRunsDecoded : Obligations.StepRunsDecoded := by
  intro s s' w i hrun hf hd hi
  have hsame := sameButDevices_of_fetch hf
  rw [← hsame.halfway.params] at hi
  exact ⟨step_of_fetch hrun hf hd hi, hsame⟩

/-- Settles O10: the fetch keeps the raw PC, the flags and the parameters, so each clause is one about the fetched word in
the state after it. -/
theorem wordsThatStop : Obligations.WordsThatStop := by
  intro s s' w hrun hf
  have hsame := (sameButDevices_of_fetch hf).halfway
  rw [step_eq_runWord hrun hf, ← hsame.pc, ← State.flags_congr hsame.cpsr, ← hsame.params]
  refine ⟨runWord_of_reserved, fun c hc => ?_⟩
  rw [runWord_of_cond hc]
  refine ⟨fun hfail => ?_, fun hpass => ?_⟩
  · rw [hfail]
    rfl
  · rw [if_pos hpass]
    exact ⟨runDecoded_of_undefined, fun k => runDecoded_of_shouldBeField⟩

/-! ### What a step that stops leaves -/

theorem ends_runDecoded (w : Word) (s : State) : Ends (fun _ => True) (Halfway s) (runDecoded w s) := by
  have hs := Halfway.refl s
  unfold runDecoded
  split
  · exact ends_raise _ hs
  · exact ends_raise _ hs
  · split
    · exact ends_refuse _ hs
    · exact ends_raise _ hs
  · split
    · exact (ends_exec _ s).mono (fun _ _ => trivial) fun _ h => h
    · exact ends_raise _ hs

theorem ends_runWord (w : Word) (s : State) : Ends (fun _ => True) (Halfway s) (runWord w s) := by
  unfold runWord
  split
  · exact ends_raise _ (Halfway.refl s)
  · split
    · exact ends_runDecoded w s
    · exact ends_next trivial

/-- A step that stops has changed no control state: neither the fetch nor the instruction had (R163). -/
theorem ends_step (s : State) : Ends (fun _ => True) (Halfway s) (step s) := by
  unfold step tick
  split
  · refine ends_andThen ((ends_fetch s).mono (fun _ h => h) fun t ht => ht ▸ Halfway.refl s) fun r hr => ?_
    exact (ends_runWord r.1 r.2).mono (fun _ h => h) fun t ht => hr.halfway.trans ht
  · exact ends_next trivial

section
variable {s t : State}

theorem Halfway.stopLeaves_fault (h : Halfway s t) (r : FaultRecord) :
    StopLeaves s (t.stopFault r) (.fault r s.pc) :=
  ⟨by rw [State.stopFault_stop, h.pc], h.pc, h.cpsr, h.spsr, h.cp15, h.params⟩

theorem Halfway.stopLeaves_refusal (h : Halfway s t) (r : RefusalReason) :
    StopLeaves s (t.stopRefusal r) (.refusal r s.pc) :=
  ⟨by rw [State.stopRefusal_stop, h.pc], h.pc, h.cpsr, h.spsr, h.cp15, h.params⟩

end

/-- Settles O60: the state left is `Halfway` with its stop record set, and a core with its stop record set stays. -/
theorem stopsLeave : Obligations.StopsLeave := by
  intro s _
  have hends := ends_step s
  refine ⟨fun f hf => ?_, fun q hq => ?_⟩
  · rw [hf] at hends
    obtain ⟨r, t, rfl, ht⟩ := hends
    rw [FaultRecord.left_leaving]
    exact ⟨r, rfl, ht.stopLeaves_fault r, step_of_stopped (by simp)⟩
  · rw [hq] at hends
    obtain ⟨r, t, rfl, ht⟩ := hends
    exact ⟨r, t.stopRefusal r, rfl, ht.stopLeaves_refusal r, step_of_stopped (by simp)⟩

end Sys2Proof.Machine
end

section
/-! PROOFS. Data processing (41_data_processing.md R178 to R200). Each row of a statement's table runs the end its
instructions share on an ALU result with the row's value and flags (`Runs`); the statements then follow from what that end
does. -/

namespace Sys2Proof.Machine

open Sys2Proof.Claims

/-! ### The ends of an instruction -/

section
variable {s t : State} {cells : List Cell}

/-- An ordinary next state, with the cells that differ and the devices left out. -/
theorem OrdinaryRegs.onlyRegs (h : OrdinaryRegs s t) (hr : SameRegsBut cells s t) (hd : SameDevices s t) :
    OnlyRegs cells s t := by
  obtain ⟨h, hmem⟩ := h
  exact ⟨hr, h.status, ⟨h.spsr, h.cp15, h.stop, h.params⟩, fun _ => by rw [hmem], hd⟩

theorem onlyRegs_setPc (s : State) (v : Word) : OnlyRegs [] s (s.setPc v) :=
  (ordinary_setPc s v).onlyRegs (fun _ _ => rfl) ⟨rfl, rfl⟩

theorem onlyRegs_setFlags_advance (s : State) (fl : Flags) : OnlyRegs [] s (s.setFlags fl).advance :=
  ((ordinary_setFlags s fl).trans (ordinary_advance _)).onlyRegs (fun _ _ => rfl) ⟨rfl, rfl⟩

theorem onlyRegs_writeReg (s : State) (i : Reg) (v : Word) : OnlyRegs (s.cellsOf i) s (s.writeReg i v) :=
  (ordinary_writeReg s i v).onlyRegs (fun _ hk => s.writeAs_cells s.mode i v hk) ⟨by simp, by simp⟩

/-- What follows a change of the listed cells and touches no cell. -/
theorem onlyRegs_trans_nil {u : State} (h : OnlyRegs cells s t) (k : OnlyRegs [] t u) : OnlyRegs cells s u := by
  obtain ⟨hregs, hstatus, ⟨hspsr, hcp15, hstop, hparams⟩, hbytes, hlog, hdraws⟩ := h
  obtain ⟨kregs, kstatus, ⟨kspsr, kcp15, kstop, kparams⟩, kbytes, klog, kdraws⟩ := k
  exact ⟨fun c hc => (kregs c List.not_mem_nil).trans (hregs c hc), kstatus.trans hstatus,
    ⟨kspsr.trans hspsr, kcp15.trans hcp15, kstop.trans hstop, kparams.trans hparams⟩,
    fun a => (kbytes a).trans (hbytes a), klog.trans hlog, kdraws.trans hdraws⟩

end

section
variable {i : Instr} {s : State}

/-- An instruction that writes Rd, with S = 1 the flags, and advances the PC. -/
theorem putsResult_of_exec {f : Bool} {rd : Reg} {v : Word} {fl : Flags} (hrd : rd ≠ 15)
    (h : exec i s = .next (if f then (s.writeReg rd v).setFlags fl else s.writeReg rd v).advance) :
    PutsResult i s f rd v fl := by
  have hw := onlyRegs_writeReg s rd v
  have hv : Holds s (s.writeReg rd v) rd v := holds_writeReg rfl rd v
  refine ⟨_, h, ?_⟩
  cases f with
  | false => exact ⟨hv, by simp [hrd], State.flags_congr (by simp), onlyRegs_trans_nil hw (onlyRegs_setPc _ _)⟩
  | true => exact ⟨hv, by simp [hrd], by simp, onlyRegs_trans_nil hw (onlyRegs_setFlags_advance _ _)⟩

theorem setsFlags_of_exec {r : AluResult} (h : exec i s = cmpFinish r s) : SetsFlags i s r.flags :=
  ⟨_, h, rfl, by simp, onlyRegs_setFlags_advance s _⟩

theorem jumpsTo_of_exec {v : Word} (h : exec i s = .next (s.setPc v)) : JumpsTo i s v :=
  ⟨_, h, rfl, rfl, onlyRegs_setPc s v⟩

end

/-! ### Flags (00_scope.md R14, 41_data_processing.md R182) -/

theorem carryIn_eq_toNat (s : State) : carryIn s = s.flags.c.toNat := by
  cases h : s.flags.c <;> simp [carryIn, h]

theorem carryWord_eq_ofNat (c : Bool) : carryWord c = BitVec.ofNat 32 c.toNat := by
  cases c <;> rfl

theorem carryWord_not_eq_ofNat (c : Bool) : carryWord (!c) = BitVec.ofNat 32 (1 - c.toNat) := by
  cases c <;> rfl

theorem addResult_value_of_no_carry (a b : Word) : (addResult a b false).value = a + b := by
  simp [addResult, carryWord_eq_ofNat]

theorem subResult_value_of_carry (a b : Word) : (subResult a b true).value = a - b := by
  simp [subResult, carryWord_eq_ofNat]

theorem addResult_flags (a b : Word) (c : Bool) :
    (addResult a b c).flags = addFlags a b (addResult a b c).value c.toNat := rfl

theorem subResult_flags (a b : Word) (c : Bool) :
    (subResult a b c).flags = subFlags a b (subResult a b c).value c.toNat := rfl

/-! ### The rows of the tables (R185 to R200) -/

/-- The row's instruction runs the end `finish` on an ALU result with the row's value and flags. -/
def Runs (finish : AluResult → State → Out) (s : State) (r : DpRow) : Prop :=
  ∃ x : AluResult, exec r.instr s = finish x s ∧ x.value = r.value ∧ x.flags = r.flags

section
variable {finish : AluResult → State → Out} {s : State}

theorem runs_logical {i : Instr} {v : Word} {sc : Bool} (h : exec i s = finish (logicalResult v sc s.flags) s) :
    Runs finish s ⟨i, v, logicFlags s v sc⟩ := ⟨_, h, rfl, rfl⟩

theorem runs_add {i : Instr} {a b v : Word} (c : Bool) (hv : (addResult a b c).value = v)
    (h : exec i s = finish (addResult a b c) s) : Runs finish s ⟨i, v, addFlags a b v c.toNat⟩ :=
  ⟨_, h, hv, hv ▸ addResult_flags a b c⟩

theorem runs_sub {i : Instr} {a b v : Word} (c : Bool) (hv : (subResult a b c).value = v)
    (h : exec i s = finish (subResult a b c) s) : Runs finish s ⟨i, v, subFlags a b v c.toNat⟩ :=
  ⟨_, h, hv, hv ▸ subResult_flags a b c⟩

variable {a b : Word} {o : Shifted}

theorem runs_logicRows {and eor orr bic : Instr}
    (hand : exec and s = finish (aluAnd a o s.flags) s) (heor : exec eor s = finish (aluEor a o s.flags) s)
    (horr : exec orr s = finish (aluOrr a o s.flags) s) (hbic : exec bic s = finish (aluBic a o s.flags) s) :
    ∀ r ∈ logicRows s a o and eor orr bic, Runs finish s r := by
  simp only [logicRows, List.forall_mem_cons]
  exact ⟨runs_logical hand, runs_logical heor, runs_logical horr, runs_logical hbic, List.forall_mem_nil _⟩

theorem runs_moveRows {mov mvn : Instr}
    (hmov : exec mov s = finish (aluMov a o s.flags) s) (hmvn : exec mvn s = finish (aluMvn a o s.flags) s) :
    ∀ r ∈ moveRows s o mov mvn, Runs finish s r := by
  simp only [moveRows, List.forall_mem_cons]
  exact ⟨runs_logical hmov, runs_logical hmvn, List.forall_mem_nil _⟩

theorem runs_arithRows {sub rsb add adc sbc rsc : Instr}
    (hsub : exec sub s = finish (aluSub a o s.flags) s) (hrsb : exec rsb s = finish (aluRsb a o s.flags) s)
    (hadd : exec add s = finish (aluAdd a o s.flags) s) (hadc : exec adc s = finish (aluAdc a o s.flags) s)
    (hsbc : exec sbc s = finish (aluSbc a o s.flags) s) (hrsc : exec rsc s = finish (aluRsc a o s.flags) s) :
    ∀ r ∈ arithRows s a o.op2 sub rsb add adc sbc rsc, Runs finish s r := by
  simp only [arithRows, carryIn_eq_toNat, ← carryWord_eq_ofNat, ← carryWord_not_eq_ofNat, List.forall_mem_cons]
  exact ⟨runs_sub true (subResult_value_of_carry ..) hsub, runs_sub true (subResult_value_of_carry ..) hrsb,
    runs_add false (addResult_value_of_no_carry ..) hadd, runs_add _ rfl hadc, runs_sub _ rfl hsbc, runs_sub _ rfl hrsc,
    List.forall_mem_nil _⟩

theorem runs_compareRows {tst teq cmp cmn : Instr}
    (htst : exec tst s = finish (aluAnd a o s.flags) s) (hteq : exec teq s = finish (aluEor a o s.flags) s)
    (hcmp : exec cmp s = finish (aluSub a o s.flags) s) (hcmn : exec cmn s = finish (aluAdd a o s.flags) s) :
    ∀ r ∈ compareRows s a o tst teq cmp cmn, Runs finish s r := by
  simp only [compareRows, List.forall_mem_cons]
  exact ⟨runs_logical htst, runs_logical hteq, runs_sub true (subResult_value_of_carry ..) hcmp,
    runs_add false (addResult_value_of_no_carry ..) hcmn, List.forall_mem_nil _⟩

end

/-! ### What a row that runs does -/

section
variable {s : State} {r : DpRow}

theorem Runs.putsResult {f : Bool} {rd : Reg} (h : Runs (dpFinish f rd) s r) (hrd : rd ≠ 15) :
    PutsResult r.instr s f rd r.value r.flags := by
  obtain ⟨x, hx, hv, hf⟩ := h
  rw [dpFinish, if_neg hrd, hv, hf] at hx
  exact putsResult_of_exec hrd hx

theorem Runs.setsFlags (h : Runs cmpFinish s r) : SetsFlags r.instr s r.flags := by
  obtain ⟨x, hx, -, hf⟩ := h
  exact hf ▸ setsFlags_of_exec hx

theorem Runs.jumpsTo (h : Runs (dpFinish false 15) s r) : JumpsTo r.instr s r.value := by
  obtain ⟨x, hx, hv, -⟩ := h
  exact hv ▸ jumpsTo_of_exec hx

/-- With S = 1 and Rd = 15 a row restores the CPSR from the SPSR (R183). -/
theorem Runs.exec_restore (h : Runs (dpFinish true 15) s r) :
    exec r.instr s = withRestorable s fun p => .next (s.returnTo r.value p) := by
  obtain ⟨x, hx, hv, -⟩ := h
  exact hv ▸ hx

end

/-! ### The operand forms (R170, R178) -/

section
variable {s : State} {c : Cond} (hc : Cond.passes c s.flags = true)
include hc

theorem runs_immRows (f : Bool) (rn rd : Reg) (op : ImmOp) :
    ∀ r ∈ immRows s c f rn rd op, Runs (dpFinish f rd) s r := by
  have h := fun k => whenPassed_pass hc k
  simp only [immRows, List.forall_mem_append]
  exact ⟨⟨runs_logicRows (h _) (h _) (h _) (h _), runs_moveRows (h _) (h _)⟩,
    runs_arithRows (h _) (h _) (h _) (h _) (h _) (h _)⟩

theorem runs_rsiRows (f : Bool) (rn rd : Reg) (op : RsiOp) :
    ∀ r ∈ rsiRows s c f rn rd op, Runs (dpFinish f rd) s r := by
  have h := fun k => whenPassed_pass hc k
  simp only [rsiRows, List.forall_mem_append]
  exact ⟨⟨runs_logicRows (h _) (h _) (h _) (h _), runs_moveRows (h _) (h _)⟩,
    runs_arithRows (h _) (h _) (h _) (h _) (h _) (h _)⟩

end

/-- Settles O15: every row of both forms runs `dpFinish`. -/
theorem dataProcessingResults : Obligations.DataProcessingResults := fun _ _ f rn rd hc hrd =>
  ⟨fun op r hr => (runs_immRows hc f rn rd op r hr).putsResult hrd,
    fun op r hr => (runs_rsiRows hc f rn rd op r hr).putsResult hrd⟩

/-- Settles O18: with S = 0 and Rd = 15 `dpFinish` is a PC write. -/
theorem pcResults : Obligations.PcResults := fun _ _ rn hc =>
  ⟨fun op r hr => (runs_immRows hc false rn 15 op r hr).jumpsTo,
    fun op r hr => (runs_rsiRows hc false rn 15 op r hr).jumpsTo⟩

/-! ### SPSR restores (R183) -/

section
variable {s : State}

theorem withRestorable_of_none (h : s.mode.spsrCell = none) (k : Word → Out) :
    withRestorable s k = raise (.protocolViolation .noSpsr) s := by
  simp [withRestorable, readSpsr_eq, h]

theorem withRestorable_of_invalid {m : SpsrCell} (h : s.mode.spsrCell = some m)
    (hp : ¬ValidStatus (s.spsr.get m)) (k : Word → Out) : withRestorable s k = refuse .badSpsrRestore s := by
  have hp : statusValid (s.spsr.get m) = false := by simpa using mt (statusValid_iff _).1 hp
  simp [withRestorable, readSpsr_eq, h, hp]

theorem withRestorable_of_valid {m : SpsrCell} (h : s.mode.spsrCell = some m) (hp : ValidStatus (s.spsr.get m))
    (k : Word → Out) : withRestorable s k = k (s.spsr.get m) :=
  withRestorable_ok (by simp [readSpsr_eq, h]) ((statusValid_iff _).2 hp) k

end

/-- Settles O19: each of the checks of a restore decides one clause. -/
theorem spsrRestores : Obligations.SpsrRestores := by
  intro s c rn i o hc r hr
  have hx : exec r.instr s = withRestorable s fun p => .next (s.returnTo r.value p) := by
    rcases List.mem_append.1 hr with hr | hr
    · exact (runs_immRows hc true rn 15 i r hr).exec_restore
    · exact (runs_rsiRows hc true rn 15 o r hr).exec_restore
  refine ⟨fun h => hx.trans (withRestorable_of_none h _), fun k h =>
    ⟨fun hp => hx.trans (withRestorable_of_invalid h hp _), fun hp => ?_⟩⟩
  exact ⟨_, hx.trans (withRestorable_of_valid h hp _), rfl, rfl, rfl, ⟨rfl, rfl, rfl, rfl⟩, fun _ => rfl, rfl, rfl⟩

/-! ### Shifts by a register (R170, R178) -/

section
variable {s : State} {c : Cond} {op : RsrOp}

theorem RsrOp.usesPc_iff : RsrOp.usesPc op = true ↔ op.rm = 15 ∨ op.rs = 15 := by
  simp [RsrOp.usesPc]

theorem rsrShifted_eq (s : State) : rsrShifted op s = byRegister s op := by
  simp [rsrShifted, byRegister]

variable (hm : op.rm ≠ 15) (hs : op.rs ≠ 15)
include hm hs

theorem RsrOp.usesPc_eq_false : RsrOp.usesPc op = false := by
  simpa using mt RsrOp.usesPc_iff.1 (by tauto)

theorem dpRsr_eq {rn rd : Reg} (hrn : rn ≠ 15) (hrd : rd ≠ 15) (alu : AluOp) (f : Bool) :
    dpRsr alu f rn rd op s = dpFinish f rd (alu (s.readReg rn) (byRegister s op) s.flags) s := by
  simp [dpRsr, hrn, hrd, RsrOp.usesPc_eq_false hm hs, rsrShifted_eq]

theorem movRsr_eq {rd : Reg} (hrd : rd ≠ 15) (alu : AluOp) (f : Bool) :
    movRsr alu f rd op s = dpFinish f rd (alu 0 (byRegister s op) s.flags) s := by
  simp [movRsr, hrd, RsrOp.usesPc_eq_false hm hs, rsrShifted_eq]

theorem cmpRsr_eq {rn : Reg} (hrn : rn ≠ 15) (alu : AluOp) :
    cmpRsr alu rn op s = cmpFinish (alu (s.readReg rn) (byRegister s op) s.flags) s := by
  simp [cmpRsr, hrn, RsrOp.usesPc_eq_false hm hs, rsrShifted_eq]

end

/-- Settles O16: with no r15 the guards of R178 pass, and the rows run `dpFinish`. -/
theorem shiftedByRegisterResults : Obligations.ShiftedByRegisterResults := by
  intro s c f rn rd op hc hrd hm hs o
  refine ⟨fun r hr => Runs.putsResult (runs_moveRows (a := 0) ?_ ?_ r hr) hrd, fun hrn =>
    ⟨fun r hr => Runs.putsResult (runs_logicRows ?_ ?_ ?_ ?_ r hr) hrd,
      fun r hr => Runs.putsResult (runs_arithRows ?_ ?_ ?_ ?_ ?_ ?_ r hr) hrd⟩⟩
  iterate 2 exact (whenPassed_pass hc _).trans (movRsr_eq hm hs hrd _ f)
  all_goals exact (whenPassed_pass hc _).trans (dpRsr_eq hm hs hrn hrd _ f)

/-- Settles O17: every row runs `cmpFinish`, those shifted by a register once the guard of R178 passes. -/
theorem compareResults : Obligations.CompareResults := by
  intro s c rn hc
  refine ⟨fun op r hr => Runs.setsFlags (runs_compareRows ?_ ?_ ?_ ?_ r hr),
    fun op r hr => Runs.setsFlags (runs_compareRows ?_ ?_ ?_ ?_ r hr),
    fun op hrn hm hs r hr => Runs.setsFlags (runs_compareRows ?_ ?_ ?_ ?_ r hr)⟩
  iterate 8 exact whenPassed_pass hc _
  all_goals exact (whenPassed_pass hc _).trans (cmpRsr_eq hm hs hrn _)

/-! ### Refusals (R178, R210, R217) -/

section
variable {s : State} {op : RsrOp}

theorem dpRsr_refused {rn rd : Reg} (h : rd = 15 ∨ rn = 15 ∨ op.rm = 15 ∨ op.rs = 15) (alu : AluOp) (f : Bool) :
    dpRsr alu f rn rd op s = refuse .unpredictable s :=
  if_pos (by simpa [RsrOp.usesPc_iff, or_assoc] using h)

theorem movRsr_refused {rd : Reg} (h : rd = 15 ∨ op.rm = 15 ∨ op.rs = 15) (alu : AluOp) (f : Bool) :
    movRsr alu f rd op s = refuse .unpredictable s :=
  if_pos (by simpa [RsrOp.usesPc_iff] using h)

theorem cmpRsr_refused {rn : Reg} (h : rn = 15 ∨ op.rm = 15 ∨ op.rs = 15) (alu : AluOp) :
    cmpRsr alu rn op s = refuse .unpredictable s :=
  if_pos (by simpa [RsrOp.usesPc_iff] using h)

variable {c : Cond} (hc : Cond.passes c s.flags = true)
include hc

theorem mull_refused {hi lo rs rm : Reg}
    (h : hi = 15 ∨ lo = 15 ∨ rs = 15 ∨ rm = 15 ∨ hi = lo ∨ hi = rm ∨ lo = rm) (f : Bool) (p : State → BitVec 64) :
    whenPassed c s (fun s => mull f hi lo rs rm (p s) s) = refuse .unpredictable s := by
  rw [whenPassed_pass hc]
  exact if_pos (by simpa [mullRefused, or_assoc] using h)

theorem execMul_refused {rd rs rm : Reg} (h : rd = 15 ∨ rs = 15 ∨ rm = 15 ∨ rd = rm) (f : Bool) :
    execMul c f rd rs rm s = refuse .unpredictable s := by
  rw [execMul, whenPassed_pass hc]
  exact if_pos (by simpa [mulRefused, or_assoc] using h)

theorem execMla_refused {rd rn rs rm : Reg} (h : rd = 15 ∨ rn = 15 ∨ rs = 15 ∨ rm = 15 ∨ rd = rm) (f : Bool) :
    execMla c f rd rn rs rm s = refuse .unpredictable s := by
  rw [execMla, whenPassed_pass hc]
  exact if_pos (by simp only [mlaRefused, mulRefused, Bool.or_eq_true, beq_iff_eq]; tauto)

theorem execClz_refused {rd rm : Reg} (h : rd = 15 ∨ rm = 15) : execClz c rd rm s = refuse .unpredictable s := by
  rw [execClz, whenPassed_pass hc]
  exact if_pos (by simpa using h)

end

/-- Settles O20: each restriction is the guard of its operand form. -/
theorem registerRefusals : Obligations.RegisterRefusals := by
  intro s c hc
  simp only [List.forall_mem_cons]
  refine ⟨fun f rn rd op h => ?_, fun f rd op h => ?_, fun f _ _ _ h => execMul_refused hc h f,
    fun f _ _ _ _ h => execMla_refused hc h f, fun f hi lo rs rm h => ?_, fun _ _ h => execClz_refused hc h⟩
  · have h := fun alu => (whenPassed_pass hc _).trans (dpRsr_refused h alu f)
    exact ⟨h _, h _, h _, h _, h _, h _, h _, h _, h _, h _, List.forall_mem_nil _⟩
  · have hmov := fun alu => (whenPassed_pass hc _).trans (movRsr_refused h alu f)
    have hcmp := fun alu => (whenPassed_pass hc _).trans (cmpRsr_refused h alu)
    exact ⟨hmov _, hmov _, hcmp _, hcmp _, hcmp _, hcmp _, List.forall_mem_nil _⟩
  · have h := mull_refused hc h f
    exact ⟨(h _ : execUmull c f hi lo rs rm s = _), (h _ : execUmlal c f hi lo rs rm s = _),
      (h _ : execSmull c f hi lo rs rm s = _), (h _ : execSmlal c f hi lo rs rm s = _), List.forall_mem_nil _⟩

end Sys2Proof.Machine
end

section
/-! PROOFS. The barrel shifter (41_data_processing.md R170 to R177): what it answers for every amount, one equation for
each kind of shift; from them the table of the spec and the shifts as arithmetic. -/

namespace Sys2Proof.Machine

open Sys2Proof.Claims

/-! ### One equation for each kind of shift -/

theorem fill_eq (b : Bool) : fill b = BitVec.fill 32 b := by
  cases b <;> rfl

section
variable (v : Word) (c : Bool) {n : Nat}

/-- LSL: from 33 on the last bit that left the word was a zero shifted in. -/
theorem shiftReg_lsl (hn : n ≠ 0) :
    shiftReg .lsl v n c = ⟨v <<< n, decide (n ≤ 32) && v.getLsbD (32 - n)⟩ := by
  rcases lt_trichotomy n 32 with h | rfl | h
  · simp [shiftReg, hn, h, h.le]
  · simp [shiftReg, BitVec.shiftLeft_eq_zero (le_refl 32)]
  · simp [shiftReg, hn, h.not_gt, h.ne', h.not_ge, BitVec.shiftLeft_eq_zero h.le]

/-- LSR: from 33 on the last bit that left the word was one above it. -/
theorem shiftReg_lsr (hn : n ≠ 0) : shiftReg .lsr v n c = ⟨v >>> n, v.getLsbD (n - 1)⟩ := by
  rcases lt_trichotomy n 32 with h | rfl | h
  · simp [shiftReg, hn, h]
  · simp [shiftReg, BitVec.ushiftRight_eq_zero (le_refl 32)]
  · simp [shiftReg, hn, h.not_gt, h.ne', BitVec.ushiftRight_eq_zero h.le, BitVec.getLsbD_of_ge v (n - 1) (by omega)]

/-- From 31 on an arithmetic shift leaves copies of the sign alone. -/
theorem sshiftRight_eq_fill (hn : 31 ≤ n) : v.sshiftRight n = BitVec.fill 32 (v.getLsbD 31) := by
  apply BitVec.eq_of_getLsbD_eq
  intro k hk
  rw [BitVec.getLsbD_sshiftRight, BitVec.getLsbD_fill, BitVec.msb_eq_getLsbD_last]
  split
  · obtain rfl : n = 31 := by omega
    obtain rfl : k = 0 := by omega
    simp
  · simp [hk]

/-- ASR: the last bit that left the word is the lowest of the shift by one less. -/
theorem shiftReg_asr (hn : n ≠ 0) : shiftReg .asr v n c = ⟨v.sshiftRight n, (v.sshiftRight (n - 1)).getLsbD 0⟩ := by
  by_cases h : n < 32
  · have hc : (v.sshiftRight (n - 1)).getLsbD 0 = v.getLsbD (n - 1) := by
      rw [BitVec.getLsbD_sshiftRight, if_pos (by omega)]
      simp
    rw [hc]
    simp [shiftReg, hn, h]
  · have h1 : 31 ≤ n - 1 := by omega
    simp [shiftReg, hn, h, fill_eq, sshiftRight_eq_fill v (h1.trans (Nat.sub_le n 1)), sshiftRight_eq_fill v h1]

/-- A rotation moves every bit, and loses none. -/
theorem getLsbD_rotateRight_eq {k : Nat} (hk : k < 32) (n : Nat) :
    (v.rotateRight n).getLsbD k = v.getLsbD ((k + n) % 32) := by
  rw [BitVec.getLsbD_rotateRight, Bool.cond_decide]
  split
  · congr 1
    omega
  · rw [decide_eq_true hk, Bool.true_and]
    congr 1
    omega

theorem rotateRight_of_mod_eq_zero (h : n % 32 = 0) : v.rotateRight n = v := by
  apply BitVec.eq_of_getLsbD_eq
  intro k hk
  rw [getLsbD_rotateRight_eq v hk]
  congr 1
  omega

/-- ROR: the carry-out is the bit that came to the top. -/
theorem shiftReg_ror (hn : n ≠ 0) : shiftReg .ror v n c = ⟨v.rotateRight n, (v.rotateRight n).getLsbD 31⟩ := by
  by_cases h : n % 32 = 0
  · simp [shiftReg, hn, h, rotateRight_of_mod_eq_zero]
  · rw [getLsbD_rotateRight_eq v (by decide), show (31 + n) % 32 = n % 32 - 1 by omega,
      ← BitVec.rotateRight_mod_eq_rotateRight]
    simp [shiftReg, hn, h, ror]

end

/-! ### The table (R171 to R177) -/

/-- Settles O21: each clause is the case of the shifter that its amount selects. -/
theorem shifterTable : Obligations.ShifterTable := by
  intro v c op n
  refine ⟨fun h => ?_, fun h => ?_, rfl, rfl, ?_, ?_, fun k => rfl, fun h1 h31 => ?_, rfl, rfl, fun h => ?_,
    fun h => ?_, fun h0 h => ?_, fun h => ?_⟩
  · rw [immShifted, if_pos h, h, ror, rotateRight_of_mod_eq_zero _ rfl]
  · rw [immShifted, if_neg h, ror]
  · simp [shiftImm, fill_eq]
  · rfl
  · have h0 : n ≠ 0 := by omega
    have h32 : n < 32 := by omega
    simp [shiftImm, shiftReg, h0, h32, ror]
  · have h0 : n ≠ 0 := by omega
    simp [shiftReg, h0, h.not_gt, h.ne']
  · have h0 : n ≠ 0 := by omega
    simp [shiftReg, h0, h.not_gt, fill_eq]
  · simp [shiftReg, h0, h]
  · have h0 : n ≠ 0 := by
      rintro rfl
      exact h rfl
    simp [shiftReg, h0, h, ror]

/-! ### The shifts as arithmetic -/

section
variable (v : Word)

/-- A bit of a word as a remainder. -/
theorem getLsbD_iff_div_mod (k : Nat) : v.getLsbD k = true ↔ v.toNat / 2 ^ k % 2 = 1 := by
  rw [← BitVec.testBit_toNat, Nat.testBit_eq_decide_div_mod_eq, decide_eq_true_eq]

/-- The last bit that a left shift moved out of the word. -/
theorem lsl_carry_iff (n : Nat) :
    (decide (n ≤ 32) && v.getLsbD (32 - n)) = true ↔ v.toNat * 2 ^ n / 2 ^ 32 % 2 = 1 := by
  by_cases h : n ≤ 32
  · have hpow : 2 ^ 32 = 2 ^ (32 - n) * 2 ^ n := by rw [← pow_add, Nat.sub_add_cancel h]
    rw [decide_eq_true h, Bool.true_and, getLsbD_iff_div_mod, hpow, Nat.mul_div_mul_right _ _ (by positivity)]
  · obtain ⟨j, rfl⟩ : ∃ j, n = j + 1 + 32 := ⟨n - 33, by omega⟩
    have hdiv : v.toNat * 2 ^ (j + 1 + 32) / 2 ^ 32 = v.toNat * 2 ^ j * 2 := by
      rw [pow_add, ← mul_assoc, Nat.mul_div_cancel _ (by decide), pow_succ, mul_assoc]
    rw [hdiv, Nat.mul_mod_left, decide_eq_false h]
    simp

/-- The lowest bit says whether the signed value is odd. -/
theorem getLsbD_zero_iff_toInt : v.getLsbD 0 = true ↔ v.toInt % 2 = 1 := by
  rw [getLsbD_iff_div_mod, BitVec.toInt_eq_toNat_cond]
  split <;> omega

/-- An arithmetic shift is a floored quotient. -/
theorem toInt_sshiftRight_eq_div (n : Nat) : (v.sshiftRight n).toInt = v.toInt / 2 ^ n := by
  rw [BitVec.toInt_sshiftRight, Int.shiftRight_eq_div_pow, Nat.cast_pow, Nat.cast_two]

end

/-- Settles O22, from the equation of each shift. -/
theorem shiftsAreArithmetic : Obligations.ShiftsAreArithmetic := by
  intro v c n hn
  have hn : n ≠ 0 := by omega
  rw [shiftReg_lsl v c hn, shiftReg_lsr v c hn, shiftReg_asr v c hn, shiftReg_ror v c hn]
  refine ⟨?_, lsl_carry_iff v n, ?_, getLsbD_iff_div_mod v (n - 1), toInt_sshiftRight_eq_div v n, ?_,
    fun k hk => getLsbD_rotateRight_eq v hk n, rfl⟩
  · rw [BitVec.toNat_shiftLeft, Nat.shiftLeft_eq]
  · rw [BitVec.toNat_ushiftRight, Nat.shiftRight_eq_div_pow]
  · rw [getLsbD_zero_iff_toInt, toInt_sshiftRight_eq_div]

end Sys2Proof.Machine
end

section
/-! PROOFS. The orders that CMP leaves in the flags (41_data_processing.md R195, 40_dispatch.md R153): Z is equality, C
the unsigned order, and N = V the signed one, since V says that the sign of the difference is wrong. -/

namespace Sys2Proof.Machine

open Sys2Proof.Claims

section
variable (a b : Word)

theorem subResult_z_iff : (subResult a b true).flags.z = true ↔ a = b := by
  rw [AluResult.flags, subResult_value_of_carry, beq_iff_eq]
  exact sub_eq_zero

theorem subResult_c_iff : (subResult a b true).flags.c = true ↔ b.toNat ≤ a.toNat := by
  simp [AluResult.flags, subResult, notBorrow]

theorem subResult_n_eq_v_iff : (subResult a b true).flags.n = (subResult a b true).flags.v ↔ b.toInt ≤ a.toInt := by
  have hn : (subResult a b true).flags.n = true ↔ (subResult a b true).value.toInt < 0 := by
    rw [AluResult.flags, getLsbD_31_eq_decide_toInt_neg, decide_eq_true_eq]
  have hv : (subResult a b true).flags.v = true ↔ (subResult a b true).value.toInt ≠ a.toInt - b.toInt :=
    (subResult_overflow_iff a b true).trans (by simp)
  have ha := toInt_bounds a
  have hb := toInt_bounds b
  have hr : (subResult a b true).value.toInt = (a.toInt - b.toInt).bmod (2 ^ 32) := by
    simpa using subResult_toInt a b true
  rw [Bool.eq_iff_iff, hn, hv, hr, Int.bmod_def]
  split <;> omega

end

/-- What runs as a compare of a with b orders them. -/
theorem comparesAs_of_exec {i : Instr} {s : State} {a b : Word} (h : exec i s = cmpFinish (subResult a b true) s) :
    ComparesAs i s a b := by
  have hz := subResult_z_iff a b
  have hc := subResult_c_iff a b
  have hnv := subResult_n_eq_v_iff a b
  have hnat : a = b ↔ a.toNat = b.toNat := BitVec.toNat_inj.symm
  have hint : a = b ↔ a.toInt = b.toInt := BitVec.toInt_inj.symm
  refine ⟨_, h, ?_⟩
  simp only [State.advance_flags, State.setFlags_flags]
  refine ⟨hz, ?ne, hc, ?cc, ?hi, ?ls, ?ge, ?lt, ?gt, ?le⟩
  all_goals simp only [Cond.passes, Bool.and_eq_true, Bool.or_eq_true, Bool.not_eq_true', ← Bool.not_eq_true,
    beq_iff_eq, bne_iff_ne, ne_eq, hz, hc, hnv]
  case cc => exact not_le
  case hi => rw [hnat]; omega
  case ls => rw [hnat]; omega
  case lt => exact not_le
  case gt => rw [hint]; omega
  case le => rw [hint]; omega

/-- Settles O24: each form of CMP ends as a compare of its two operands. -/
theorem compareOrders : Obligations.CompareOrders := by
  intro s c rn hc
  exact ⟨fun op => comparesAs_of_exec (whenPassed_pass hc _), fun op => comparesAs_of_exec (whenPassed_pass hc _),
    fun op hrn hm hs => comparesAs_of_exec ((whenPassed_pass hc _).trans (cmpRsr_eq hm hs hrn aluSub))⟩

end Sys2Proof.Machine
end

section
/-! PROOFS. The multiplies and CLZ (42_multiply_clz.md R210 to R217): with the registers of R210 each instruction runs its
end on the product, and the product of the model is the exact integer product, accumulated or not, cut to the width of the
result. -/

namespace Sys2Proof.Machine

open Sys2Proof.Claims

/-! ### MUL and MLA (R210 to R212) -/

section
variable {i : Instr} {s : State} {c : Cond}

theorem putsResult_of_mulFinish {f : Bool} {rd : Reg} {p : Word} (hrd : rd ≠ 15) (h : exec i s = mulFinish f rd p s) :
    PutsResult i s f rd p (mulFlags p s.flags) :=
  putsResult_of_exec hrd h

variable (hc : Cond.passes c s.flags = true)
include hc

theorem execMul_eq {rd rs rm : Reg} (f : Bool) (hrd : rd ≠ 15) (hrs : rs ≠ 15) (hrm : rm ≠ 15) (hne : rd ≠ rm) :
    execMul c f rd rs rm s = mulFinish f rd (s.readReg rm * s.readReg rs) s := by
  rw [execMul, whenPassed_pass hc]
  exact if_neg (by simp [mulRefused, hrd, hrs, hrm, hne])

theorem execMla_eq {rd rn rs rm : Reg} (f : Bool) (hrd : rd ≠ 15) (hrn : rn ≠ 15) (hrs : rs ≠ 15) (hrm : rm ≠ 15)
    (hne : rd ≠ rm) :
    execMla c f rd rn rs rm s = mulFinish f rd (s.readReg rm * s.readReg rs + s.readReg rn) s := by
  rw [execMla, whenPassed_pass hc]
  exact if_neg (by simp [mlaRefused, mulRefused, hrd, hrn, hrs, hrm, hne])

end

/-- Settles O25: reduction modulo 2^32 commutes with the product and the sum. -/
theorem multiplyResults : Obligations.MultiplyResults := by
  intro s c f rd rn rs rm hc hrd hrs hrm hne
  simp only [BitVec.ofNat_add, BitVec.ofNat_mul, BitVec.ofNat_toNat, BitVec.setWidth_eq]
  exact ⟨putsResult_of_mulFinish hrd (execMul_eq hc f hrd hrs hrm hne),
    fun hrn => putsResult_of_mulFinish hrd (execMla_eq hc f hrd hrn hrs hrm hne)⟩

/-! ### The long products as integers (R213 to R216) -/

theorem unsignedProduct_eq_ofInt (a b : Word) : unsignedProduct a b = BitVec.ofInt 64 ((a.toNat : Int) * b.toNat) := by
  simp only [unsignedProduct, BitVec.ofInt_mul, BitVec.ofInt_natCast, BitVec.ofNat_toNat]

theorem signedProduct_eq_ofInt (a b : Word) : signedProduct a b = BitVec.ofInt 64 (a.toInt * b.toInt) := by
  simp only [signedProduct, BitVec.ofInt_mul, BitVec.signExtend]

theorem accumulator_eq_ofInt (hi lo : Reg) (s : State) :
    accumulator hi lo s = BitVec.ofInt 64 (((s.readReg hi).toNat : Int) * 2 ^ 32 + (s.readReg lo).toNat) := by
  have happ : (accumulator hi lo s).toNat = (s.readReg hi).toNat * 2 ^ 32 + (s.readReg lo).toNat := by
    rw [accumulator, BitVec.toNat_append, ← Nat.shiftLeft_add_eq_or_of_lt (s.readReg lo).isLt, Nat.shiftLeft_eq]
  rw [← BitVec.setWidth_eq (accumulator hi lo s), ← BitVec.ofNat_toNat, happ, ← BitVec.ofInt_natCast]
  push_cast
  rfl

/-! ### The long multiplies -/

/-- A 64-bit result in RdHi and RdLo, with S = 1 its N and Z, the PC advanced, and nothing else. -/
def PutsLong (i : Instr) (s : State) (f : Bool) (hi lo : Reg) (p : BitVec 64) : Prop :=
  Completes i s fun t =>
    Holds s t lo (p.extractLsb' 0 32) ∧ Holds s t hi (p.extractLsb' 32 32) ∧ t.pc = s.pc + 4 ∧
    t.flags = (if f then mullFlags p s.flags else s.flags) ∧ OnlyRegs (s.cellsOf hi ++ s.cellsOf lo) s t

/-- Two register writes change the cells of both registers alone. -/
theorem onlyRegs_writeReg_writeReg (s : State) (i j : Reg) (v w : Word) :
    OnlyRegs (s.cellsOf i ++ s.cellsOf j) s ((s.writeReg j w).writeReg i v) := by
  refine ((ordinary_writeReg s j w).trans (ordinary_writeReg _ i v)).onlyRegs (fun k hk => ?_) ⟨by simp, by simp⟩
  obtain ⟨hi, hj⟩ := not_or.1 (mt List.mem_append.2 hk)
  rw [State.writeReg, State.writeReg_mode, State.writeAs_cells _ _ i v hi, State.writeReg, State.writeAs_cells _ _ j w hj]

section
variable {i : Instr} {s : State} {f : Bool} {hi lo : Reg} (hhi : hi ≠ 15) (hlo : lo ≠ 15) (hne : hi ≠ lo)
include hhi hlo hne

theorem putsLong_of_mullFinish {p : BitVec 64} (h : exec i s = mullFinish f hi lo p s) : PutsLong i s f hi lo p := by
  have hw := onlyRegs_writeReg_writeReg s hi lo (p.extractLsb' 32 32) (p.extractLsb' 0 32)
  have hlow : Holds s (s.writeReg lo (p.extractLsb' 0 32)) lo (p.extractLsb' 0 32) := holds_writeReg rfl lo _
  have hl := Holds.writeReg hlow (by simp) hne (p.extractLsb' 32 32)
  have hh := holds_writeReg (s := s) (t := s.writeReg lo (p.extractLsb' 0 32)) (by simp) hi (p.extractLsb' 32 32)
  refine ⟨_, h, ?_⟩
  cases f with
  | false => exact ⟨hl, hh, by simp [hhi, hlo], by simp, onlyRegs_trans_nil hw (onlyRegs_setPc _ _)⟩
  | true => exact ⟨hl, hh, by simp [hhi, hlo], by simp, onlyRegs_trans_nil hw (onlyRegs_setFlags_advance _ _)⟩

/-- None of the registers is one that R210 refuses. -/
theorem whenPassed_mull {c : Cond} {rs rm : Reg} (hc : Cond.passes c s.flags = true) (hrs : rs ≠ 15) (hrm : rm ≠ 15)
    (hhm : hi ≠ rm) (hlm : lo ≠ rm) (p : State → BitVec 64) :
    whenPassed c s (fun s => mull f hi lo rs rm (p s) s) = mullFinish f hi lo (p s) s := by
  rw [whenPassed_pass hc]
  exact if_neg (by simp [mullRefused, hhi, hlo, hrs, hrm, hne, hhm, hlm])

end

/-- Settles O26: each of the four runs the shared long multiply on the exact product modulo 2^64. -/
theorem longMultiplyResults : Obligations.LongMultiplyResults := by
  intro s c f hi lo rs rm hc hhi hlo hrs hrm hne hhm hlm u v acc
  have hu : unsignedProduct (s.readReg rm) (s.readReg rs) = BitVec.ofInt 64 u := unsignedProduct_eq_ofInt _ _
  have hv : signedProduct (s.readReg rm) (s.readReg rs) = BitVec.ofInt 64 v := signedProduct_eq_ofInt _ _
  have hacc : accumulator hi lo s = BitVec.ofInt 64 acc := accumulator_eq_ofInt hi lo s
  have hrun := whenPassed_mull (f := f) hhi hlo hne hc hrs hrm hhm hlm
  have humull : execUmull c f hi lo rs rm s = mullFinish f hi lo (BitVec.ofInt 64 u) s := by
    rw [← hu]
    exact hrun _
  have humlal : execUmlal c f hi lo rs rm s = mullFinish f hi lo (BitVec.ofInt 64 (u + acc)) s := by
    rw [BitVec.ofInt_add, ← hu, ← hacc]
    exact hrun _
  have hsmull : execSmull c f hi lo rs rm s = mullFinish f hi lo (BitVec.ofInt 64 v) s := by
    rw [← hv]
    exact hrun _
  have hsmlal : execSmlal c f hi lo rs rm s = mullFinish f hi lo (BitVec.ofInt 64 (v + acc)) s := by
    rw [BitVec.ofInt_add, ← hv, ← hacc]
    exact hrun _
  simp only [List.forall_mem_cons]
  exact ⟨putsLong_of_mullFinish hhi hlo hne humull, putsLong_of_mullFinish hhi hlo hne humlal,
    putsLong_of_mullFinish hhi hlo hne hsmull, putsLong_of_mullFinish hhi hlo hne hsmlal, List.forall_mem_nil _⟩

/-! ### CLZ (R217) -/

theorem leadingZeros_zero : leadingZeros 0 = 32 := if_pos rfl

/-- The base-2 logarithm of a value is the number of its highest set bit. -/
theorem leadingZeros_of_highest {v : Word} {k : Nat} (hk : v.getLsbD k = true)
    (hj : ∀ j, k < j → v.getLsbD j = false) : leadingZeros v = 31 - k := by
  have h0 : v ≠ 0 := by
    rintro rfl
    simp at hk
  have hle : 2 ^ k ≤ v.toNat := Nat.ge_two_pow_of_testBit hk
  have hlt : v.toNat < 2 ^ (k + 1) := Nat.lt_pow_two_of_testBit _ fun j h => hj j h
  have hne : v.toNat ≠ 0 := (Nat.two_pow_pos k |>.trans_le hle).ne'
  rw [leadingZeros, if_neg h0, (Nat.log2_eq_iff hne).2 ⟨hle, hlt⟩]

theorem execClz_eq {s : State} {c : Cond} {rd rm : Reg} (hc : Cond.passes c s.flags = true) (hrd : rd ≠ 15)
    (hrm : rm ≠ 15) :
    execClz c rd rm s = .next (s.writeReg rd (BitVec.ofNat 32 (leadingZeros (s.readReg rm)))).advance := by
  rw [execClz, whenPassed_pass hc]
  exact if_neg (by simp [hrd, hrm])

theorem putsResult_clz {s : State} {c : Cond} {rd rm : Reg} (hc : Cond.passes c s.flags = true) (hrd : rd ≠ 15)
    (hrm : rm ≠ 15) :
    PutsResult (.clz c rd rm) s false rd (BitVec.ofNat 32 (leadingZeros (s.readReg rm))) s.flags :=
  putsResult_of_exec hrd (execClz_eq hc hrd hrm)

/-- Settles O27: the instruction puts the count of leading zeros, which the highest set bit decides. -/
theorem clzResult : Obligations.ClzResult := by
  intro s c rd rm hc hrd hrm
  have h := putsResult_clz hc hrd hrm
  refine ⟨fun h0 => ?_, fun k _ hk hj => ?_⟩
  · rwa [h0, leadingZeros_zero] at h
  · rwa [leadingZeros_of_highest hk hj] at h

end Sys2Proof.Machine
end

section
/-! PROOFS. Status-register transfer (43_status_register.md R230 to R234). Both forms of MSR run `msr` on their operand; its
checks and the value it writes are those of the statements, bit by bit, and each clause is one path through the checks. -/

namespace Sys2Proof.Machine

open Sys2Proof.Claims

/-! ### MRS (R230) -/

theorem mrsFinish_of_ne {rd : Reg} (hrd : rd ≠ 15) (v : Word) (s : State) :
    mrsFinish rd v s = .next (s.writeReg rd v).advance :=
  if_neg (by simpa using hrd)

theorem mrsFinish_pc (v : Word) (s : State) : mrsFinish 15 v s = refuse .unpredictable s := rfl

section
variable {s : State} {c : Cond} {k : SpsrCell} (hc : Cond.passes c s.flags = true)
include hc

theorem execMrs_cpsr (rd : Reg) : execMrs c false rd s = mrsFinish rd s.cpsr s := whenPassed_pass hc _

theorem execMrs_spsr (hk : s.mode.spsrCell = some k) (rd : Reg) :
    execMrs c true rd s = mrsFinish rd (s.spsr.get k) s := by
  simp [execMrs, whenPassed_pass hc, readSpsr_eq, hk]

theorem execMrs_noSpsr (hk : s.mode.spsrCell = none) (rd : Reg) :
    execMrs c true rd s = raise (.protocolViolation .noSpsr) s := by
  simp [execMrs, whenPassed_pass hc, readSpsr_eq, hk]

end

/-- Settles O28: each read of a status register ends in `mrsFinish`, which only Rd = 15 stops. -/
theorem mrsReads : Obligations.MrsReads := by
  intro s c rd hc
  have hcpsr := execMrs_cpsr hc
  refine ⟨fun hrd => ?_, fun k hk hrd => ?_, fun hk => execMrs_noSpsr hc hk rd, (hcpsr 15).trans (mrsFinish_pc ..),
    fun hk => ?_⟩
  · exact putsResult_of_exec hrd ((hcpsr rd).trans (mrsFinish_of_ne hrd ..))
  · exact putsResult_of_exec hrd ((execMrs_spsr hc hk rd).trans (mrsFinish_of_ne hrd ..))
  · obtain ⟨k, hk⟩ := Option.ne_none_iff_exists'.1 hk
    exact (execMrs_spsr hc hk 15).trans (mrsFinish_pc ..)

/-! ### The words of the statements: reserved bits, the merged value, valid values (R231 to R234) -/

theorem writesReserved_iff {mask : BitVec 4} {op : Word} :
    WritesReserved mask op ↔ (op &&& byteMask mask &&& reservedStatus != 0) = true := by
  have hzero : op &&& byteMask mask &&& reservedStatus = 0 ↔ ReservedZero (op &&& byteMask mask) := Iff.rfl
  have hbit : ∀ k, k < 28 → ((op &&& byteMask mask).getLsbD k = true ↔ Selected mask k ∧ op.getLsbD k = true) := by
    intro k hk
    simp [Selected, byteMask_getLsbD mask (show k < 32 by omega), and_comm]
  rw [bne_iff_ne, ne_eq, hzero, reservedZero_iff]
  simp only [not_forall, Bool.not_eq_false]
  constructor
  · rintro ⟨k, h8, h28, h⟩
    exact ⟨k, h8, h28, (hbit k h28).2 h⟩
  · rintro ⟨k, h8, h28, h⟩
    exact ⟨k, h8, h28, (hbit k h28).1 h⟩

/-- The bits say which value is written. -/
theorem eq_merged_of_merges {old op new : Word} {mask : BitVec 4} (h : Merges old op mask new) :
    new = merged old op (byteMask mask) := by
  apply BitVec.eq_of_getLsbD_eq
  intro k hk
  obtain ⟨hsel, hkeep⟩ := h k hk
  rw [merged_getLsbD old op mask hk]
  split
  · exact hsel ‹_›
  · exact hkeep ‹_›

theorem statusValid_eq_false {p : Word} (h : ¬ValidStatus p) : statusValid p = false := by
  simpa using mt (statusValid_iff p).1 h

/-! ### The writes of MSR (R232 to R234) -/

section
variable {s : State} {mask : BitVec 4} {op new : Word} {k : SpsrCell}

theorem msrCpsr_user (hu : s.mode = .usr) (hm : mask.getLsbD 0 = true) :
    msrCpsr op mask s = refuse .userControlWrite s :=
  if_pos (by rw [hu, hm]; rfl)

section
variable (hu : ¬(s.mode = .usr ∧ mask.getLsbD 0 = true)) (hn : Merges s.cpsr op mask new)
include hu hn

theorem msrCpsr_eq : msrCpsr op mask s =
    if !statusValid new then refuse .badStatusValue s else .next { s with cpsr := new }.advance := by
  rw [eq_merged_of_merges hn]
  exact if_neg (by simpa using hu)

theorem msrCpsr_invalid (hv : ¬ValidStatus new) : msrCpsr op mask s = refuse .badStatusValue s := by
  rw [msrCpsr_eq hu hn, statusValid_eq_false hv]
  rfl

theorem msrCpsr_valid (hv : ValidStatus new) : msrCpsr op mask s = .next { s with cpsr := new }.advance := by
  rw [msrCpsr_eq hu hn, (statusValid_iff new).2 hv]
  rfl

end

section
variable {old : Word} (hn : Merges old op mask new)
include hn

theorem msrSpsr_invalid (hm : mask ≠ 0) (hv : ¬ValidStatus new) :
    msrSpsr old op mask s = refuse .badStatusValue s := by
  rw [eq_merged_of_merges hn] at hv
  exact if_pos (by rw [bne_iff_ne.2 hm, statusValid_eq_false hv]; rfl)

/-- A field mask of 0 is not asked for a valid value (log 15). -/
theorem msrSpsr_valid (hk : s.mode.spsrCell = some k) (hv : mask ≠ 0 → ValidStatus new) :
    msrSpsr old op mask s = .next { s with spsr := s.spsr.set k new }.advance := by
  have hv : ¬(mask != 0 && !statusValid new) = true := by simpa using fun hm => (statusValid_iff new).2 (hv hm)
  have hw : s.writeSpsr new = { s with spsr := s.spsr.set k new } := by rw [State.writeSpsr, hk]
  rw [eq_merged_of_merges hn] at hv hw ⊢
  rw [← hw]
  exact if_neg hv

end

/-! ### The checks of MSR, in their order (R231, R35) -/

section
variable {r pcOperand : Bool}

theorem msr_noSpsr (hk : s.mode.spsrCell = none) :
    msr true mask op pcOperand s = raise (.protocolViolation .noSpsr) s := by
  simp [msr, readSpsr_eq, hk]

/-- In a mode with an SPSR the checks are those of MSR CPSR. -/
theorem msr_eq_of_spsrCell (hk : s.mode.spsrCell = some k) : msr true mask op pcOperand s =
    if op &&& byteMask mask &&& reservedStatus != 0 then raise (.protocolViolation .reservedStatusBits) s
    else if pcOperand then refuse .unpredictable s
    else msrSpsr (s.spsr.get k) op mask s := by
  simp only [msr, readSpsr_eq, hk, Option.map_some]

theorem msr_reserved (hs : r = true → s.mode.spsrCell ≠ none) (h : WritesReserved mask op) :
    msr r mask op pcOperand s = raise (.protocolViolation .reservedStatusBits) s := by
  cases r with
  | false => exact if_pos (writesReserved_iff.1 h)
  | true =>
    obtain ⟨k, hk⟩ := Option.ne_none_iff_exists'.1 (hs rfl)
    exact (msr_eq_of_spsrCell hk).trans (if_pos (writesReserved_iff.1 h))

variable (h : ¬WritesReserved mask op)
include h

theorem msr_pcOperand (hs : r = true → s.mode.spsrCell ≠ none) : msr r mask op true s = refuse .unpredictable s := by
  cases r with
  | false => exact if_neg (mt writesReserved_iff.2 h)
  | true =>
    obtain ⟨k, hk⟩ := Option.ne_none_iff_exists'.1 (hs rfl)
    exact (msr_eq_of_spsrCell hk).trans (if_neg (mt writesReserved_iff.2 h))

theorem msr_cpsr : msr false mask op false s = msrCpsr op mask s :=
  if_neg (mt writesReserved_iff.2 h)

theorem msr_spsr (hk : s.mode.spsrCell = some k) : msr true mask op false s = msrSpsr (s.spsr.get k) op mask s :=
  (msr_eq_of_spsrCell hk).trans (if_neg (mt writesReserved_iff.2 h))

end

end

/-! ### The two forms (R231) -/

section
variable {s : State} {c : Cond} {r : Bool} {mask : BitVec 4} {imm : ImmOp} {rm : Reg} {x : Instr × Word}
  (hc : Cond.passes c s.flags = true)
include hc

theorem exec_msrReg : exec (.msrReg c r mask rm) s = msr r mask (s.readReg rm) (rm == 15) s := whenPassed_pass hc _

variable (hx : x ∈ msrForms s c r mask imm rm)
include hx

/-- Either form runs `msr` on its operand; only the register form can name r15. -/
theorem exec_msrForms : exec x.1 s = msr r mask x.2 false s ∨ exec x.1 s = msr r mask x.2 (rm == 15) s := by
  rw [msrForms, List.mem_cons, List.mem_singleton] at hx
  rcases hx with rfl | rfl
  · exact .inl (whenPassed_pass hc _)
  · exact .inr (exec_msrReg hc)

theorem exec_msrForms_of_ne (hrm : rm ≠ 15) : exec x.1 s = msr r mask x.2 false s := by
  have h := exec_msrForms hc hx
  rwa [beq_false_of_ne hrm, or_self] at h

end

/-- Settles O29: with every check passed the write is one update of CPSR. -/
theorem msrWritesCpsr : Obligations.MsrWritesCpsr := by
  intro s c mask imm rm new hc hrm hu x hx hw hn hv
  have hu : ¬(s.mode = .usr ∧ mask.getLsbD 0 = true) := by
    rintro ⟨husr, hm⟩
    exact Bool.false_ne_true ((hu husr).symm.trans hm)
  have he : exec x.1 s = .next { s with cpsr := new }.advance :=
    (exec_msrForms_of_ne hc hx hrm).trans ((msr_cpsr hw).trans (msrCpsr_valid hu hn hv))
  exact ⟨_, he, rfl, rfl, rfl, ⟨rfl, rfl, rfl, rfl⟩, fun _ => rfl, rfl, rfl⟩

/-- Settles O30: with every check passed the write is one update of the mode's own SPSR. -/
theorem msrWritesSpsr : Obligations.MsrWritesSpsr := by
  intro s c mask imm rm new k hc hrm hk x hx hw hn hv
  have he : exec x.1 s = .next { s with spsr := s.spsr.set k new }.advance :=
    (exec_msrForms_of_ne hc hx hrm).trans ((msr_spsr hw hk).trans (msrSpsr_valid hn hk hv))
  exact ⟨_, he, Spsrs.get_set_same .., fun _ hj => Spsrs.get_set_ne _ hj _, rfl, rfl, rfl, rfl, rfl, rfl, fun _ => rfl,
    rfl, rfl⟩

/-- Settles O31: each clause is the check of `msr`, or of the write it leads to, that the clause's premises reach. -/
theorem msrStops : Obligations.MsrStops := by
  intro s c mask imm rm hc
  refine ⟨fun hk x hx => ?noSpsr, fun r hs x hx hw => ?reserved, fun r hs hw => ?pcOperand,
    fun hrm hu hm x hx hw => ?user, fun hrm hu x hx new hw hn hv => ?cpsr, fun hrm hm k hk x hx new hw hn hv => ?spsr⟩
  case noSpsr => exact (exec_msrForms hc hx).elim (·.trans (msr_noSpsr hk)) (·.trans (msr_noSpsr hk))
  case reserved => exact (exec_msrForms hc hx).elim (·.trans (msr_reserved hs hw)) (·.trans (msr_reserved hs hw))
  case pcOperand => exact (exec_msrReg hc).trans (msr_pcOperand hw hs)
  case user => exact (exec_msrForms_of_ne hc hx hrm).trans ((msr_cpsr hw).trans (msrCpsr_user hu hm))
  case cpsr => exact (exec_msrForms_of_ne hc hx hrm).trans ((msr_cpsr hw).trans (msrCpsr_invalid hu hn hv))
  case spsr => exact (exec_msrForms_of_ne hc hx hrm).trans ((msr_spsr hw hk).trans (msrSpsr_invalid hn hm hv))

end Sys2Proof.Machine
end

section
/-! PROOFS. Branches (44_branch.md R240 to R244). B and BX end in one write of the PC, BL and BLX in the write of r14 and
then of the PC; what stops BX and BLX is a check of `branchExchange` or of BLX itself. -/

namespace Sys2Proof.Machine

open Sys2Proof.Claims

/-! ### The target and the link (R240, R241) -/

/-- The two zero bits below the signed offset multiply it by 4. -/
theorem branchOffset_eq_ofInt (off : BitVec 24) : branchOffset off = BitVec.ofInt 32 (4 * off.toInt) := by
  have happ : (off ++ 0b00#2).toInt = 4 * off.toInt := BitVec.toInt_append_zero
  rw [branchOffset, BitVec.signExtend, happ]

theorem branchTarget_eq (off : BitVec 24) (s : State) :
    branchTarget off s = s.pc + 8 + BitVec.ofInt 32 (4 * off.toInt) := by
  rw [branchTarget, State.readReg_pc, branchOffset_eq_ofInt]

/-- The instruction writes the link register, then the PC, and nothing else. -/
theorem completes_of_link {i : Instr} {s : State} {v : Word} (h : exec i s = .next (s.link.setPc v)) :
    Completes i s fun t =>
      t.pc = v ∧ Holds s t 14 (s.pc + 4) ∧ t.flags = s.flags ∧ OnlyRegs (s.cellsOf 14) s t :=
  ⟨_, h, rfl, holds_writeReg rfl 14 _, s.writeReg_flags .., onlyRegs_trans_nil (onlyRegs_writeReg ..) (onlyRegs_setPc ..)⟩

/-! ### The exchange (R242, R243) -/

section
variable {t : Word}

theorem branchExchange_even (ht : t.getLsbD 0 = false) (link : State → State) (s : State) :
    branchExchange t link s = .next ((link s).setPc t) :=
  if_neg (Bool.eq_false_iff.1 ht)

theorem branchExchange_odd (ht : t.getLsbD 0 = true) (link : State → State) (s : State) :
    branchExchange t link s = refuse .thumbUnsupported s :=
  if_pos ht

end

/-! ### The instructions with their condition passed -/

section
variable {s : State} {c : Cond} (hc : Cond.passes c s.flags = true)
include hc

theorem execB_eq (off : BitVec 24) : execB c off s = .next (s.setPc (branchTarget off s)) := whenPassed_pass hc _

theorem execBl_eq (off : BitVec 24) : execBl c off s = .next (s.link.setPc (branchTarget off s)) := whenPassed_pass hc _

theorem execBx_eq (rm : Reg) : execBx c rm s = branchExchange (s.readReg rm) id s := whenPassed_pass hc _

theorem execBlxReg_pc : execBlxReg c 15 s = refuse .unpredictable s := whenPassed_pass hc _

theorem execBlxReg_of_ne {rm : Reg} (hrm : rm ≠ 15) :
    execBlxReg c rm s = branchExchange (s.readReg rm) State.link s :=
  (whenPassed_pass hc _).trans (if_neg (by simpa using hrm))

end

/-! ### The statements -/

/-- Settles O32: both branches write the target `branchTarget`, which is A + 8 + 4 × the signed offset. -/
theorem branchResults : Obligations.BranchResults := by
  intro s c off hc target
  have htarget : branchTarget off s = target := branchTarget_eq off s
  rw [← htarget]
  exact ⟨jumpsTo_of_exec (execB_eq hc off), completes_of_link (execBl_eq hc off)⟩

/-- Settles O33: past BLX's own check of r15, bit 0 of the register decides between the branch and the refusal. -/
theorem exchangeResults : Obligations.ExchangeResults := by
  intro s c rm hc
  have hbx := execBx_eq hc rm
  refine ⟨fun heven => ?bxEven, fun hodd => ?bxOdd, ?blxPc, fun hrm hodd => ?blxOdd, fun hrm heven => ?blxEven⟩
  case bxEven => exact jumpsTo_of_exec (hbx.trans (branchExchange_even heven id s))
  case bxOdd => exact hbx.trans (branchExchange_odd hodd id s)
  case blxPc =>
    rintro rfl
    exact ⟨s.readReg_pc, execBlxReg_pc hc⟩
  case blxOdd => exact (execBlxReg_of_ne hc hrm).trans (branchExchange_odd hodd _ s)
  case blxEven => exact completes_of_link ((execBlxReg_of_ne hc hrm).trans (branchExchange_even heven _ s))

end Sys2Proof.Machine
end

section
/-! PROOFS. Single transfers of ordinary memory (45_load_store.md R250 to R265): the access after the write-back reads or
writes the bytes it reaches, and the end of the load or of the store leaves the rest. What R268 refuses of each form, which
is a guard of it. The swaps (R266, R267), a read and a write of one address. -/

namespace Sys2Proof.Machine

open Sys2Proof.Claims

/-! ### Accesses that reach ordinary memory -/

section
variable {s : State} {va pa : Word} {n : Width} {acc : Access} {priv : Bool}

/-- The write-back changes nothing that decides what an access reaches. -/
theorem reaches_backState (h : Reaches s va n acc priv pa) (x : Single) (rn : Reg) :
    Reaches (x.backState s rn) va n acc priv pa := by
  obtain ⟨ha, ht, hd⟩ := h
  exact ⟨ha, translate_congr (backState_mem x s rn) (backState_cp15 x s rn) ht,
    (deviceAt_congr (backState_params x s rn) pa).trans hd⟩

theorem memRead_of_reaches (h : Reaches s va n acc priv pa) : memRead va n acc priv s = .next (s.mem.load pa n, s) := by
  obtain ⟨ha, ht, hd⟩ := h
  exact memRead_memory ha ht hd

theorem memWrite_of_reaches (h : Reaches s va n .write priv pa) (v : Word) :
    memWrite va n v priv s = .next { s with mem := s.mem.store pa v n } := by
  obtain ⟨ha, ht, hd⟩ := h
  exact memWrite_memory ha ht hd v

/-- Where memory is the old one with v stored at pa, the access there holds v and the other bytes are as they were (R62). -/
theorem bytes_of_store {t : State} {v : Word} (hwf : s.mem.wf) (hm : t.mem = s.mem.store pa v n) :
    BytesAt t pa n v ∧ SameBytesBut (InAccess pa n) s t := by
  rw [BytesAt, SameBytesBut, hm]
  exact ⟨fun k hk => Memory.read_store_inside hwf pa v n hk, fun a ha => Memory.read_store_outside hwf pa v n ha⟩

end

/-! ### The loads -/

section
variable {s : State} {c : Cond} {p u w : Bool} {rn rd rm : Reg} {off : BitVec 12} {op : RsiOp} {off8 : BitVec 8} {x : Single}
  (hc : Cond.passes c s.flags = true) (hr : x.refused = false) {pa : Word}
include hc hr

theorem wordLoad_memory (hx : x ∈ wordLoads s c u w rn rd off op)
    (h : Reaches s (x.wordVa s) .word .read x.priv pa) :
    Completes x.instr s fun t =>
      Loaded x s t rn rd ((s.mem.load pa .word).rotateRight (8 * (x.addr.toNat % 4))) ∧ SameDevices s t := by
  obtain ⟨-, hb, he⟩ := exec_wordLoad hc hr hx
  have ha : misaligned (x.wordVa s) .word = false := h.1
  rw [loadWord_of_aligned (backState_cp15 x s rn) ha, memRead_of_reaches (reaches_backState h x rn), backState_mem] at he
  exact ⟨_, he, loaded_finishWith hb (.refl _) rd _, by simp, by simp⟩

/-- R268 refuses every load of less than a word into the PC. -/
theorem narrowLoad_rd_ne (hx : x ∈ byteLoads s c u w rn rd off op ++ halfLoads s c p u w rn rd off8 rm) : rd ≠ 15 := by
  rcases List.mem_append.1 hx with hx | hx
  · exact beq_eq_false_iff_ne.1 (runsAs_byteLoad hc hr hx).2.bad_eq
  · exact beq_eq_false_iff_ne.1 (runsAs_halfLoad hc hr hx).2.bad_eq

theorem narrowLoad_memory (hx : x ∈ byteLoads s c u w rn rd off op ++ halfLoads s c p u w rn rd off8 rm)
    (h : Reaches s x.addr x.width .read x.priv pa) :
    Completes x.instr s fun t => Loaded x s t rn rd (x.ext (s.mem.load pa x.width)) ∧ SameDevices s t := by
  obtain ⟨-, hb, he⟩ := exec_narrowLoad hc hr hx
  have hrd := narrowLoad_rd_ne hc hr hx
  have hl := loaded_finishWith hb (SameButDevices.refl (x.backState s rn)) rd (x.ext (s.mem.load pa x.width))
  rw [if_neg hrd, finishWith_of_ne _ hrd] at hl
  rw [memRead_of_reaches (reaches_backState h x rn), backState_mem] at he
  exact ⟨_, he, hl, by simp, by simp⟩

end

/-- Settles O34: the word at the aligned address, rotated, ends in Rd. -/
theorem wordLoadResults : Obligations.WordLoadResults :=
  fun _ _ _ _ _ _ _ _ _ hc _ hx hr h => wordLoad_memory hc hr hx h

/-- Settles O35: Rd is never the PC, so it holds the extended value. -/
theorem narrowLoadResults : Obligations.NarrowLoadResults :=
  fun _ _ _ _ _ _ _ _ _ _ _ _ hc _ hx hr h => narrowLoad_memory hc hr hx h

/-! ### The stores -/

/-- A store that reaches ordinary memory after its write-back. -/
theorem store_memory {x : Single} {s : State} {rn : Reg} {v pa : Word} (hwf : s.mem.wf) (hb : x.back = true → rn ≠ 15)
    (he : exec x.instr s = andThen (memWrite x.addr x.width v x.priv (x.backState s rn)) fun s' => .next s'.advance)
    (h : Reaches s x.addr x.width .write x.priv pa) :
    Completes x.instr s fun t => Stored x s t rn ∧ SameDevices s t ∧ BytesAt t pa x.width v ∧
      SameBytesBut (InAccess pa x.width) s t := by
  rw [memWrite_of_reaches (reaches_backState h x rn), backState_mem] at he
  refine ⟨_, he, stored_advance hb ⟨rfl, fun _ => Memory.wf_store hwf ..⟩, ?_, bytes_of_store hwf rfl⟩
  exact ⟨backState_devLog x s rn, backState_draws x s rn⟩

/-- Settles O36: the data is Rd's value before the write-back, r15 reading as A + 8. -/
theorem wordStoreResults : Obligations.WordStoreResults := by
  intro s c u w rn rd off op pa hwf hc x hx hr h
  obtain ⟨hw, hb, he⟩ := exec_wordStore hc hr hx
  rw [← hw] at h ⊢
  exact store_memory hwf hb he h

/-- Settles O37: the same store, of less than a word. -/
theorem narrowStoreResults : Obligations.NarrowStoreResults := by
  intro s c p u w rn rd rm off op off8 pa hwf hc x hx hr h
  obtain ⟨-, hb, he⟩ := exec_narrowStore hc hr hx
  exact store_memory hwf hb he h

/-! ### Guards that refuse (R268) -/

section
variable {s : State} {k : Out}

/-! A guard answers one refusal for what it stops and for what is refused behind it. -/

theorem unlessPcOffset_refuses {rm : Reg} (h : (rm == 15) = false → k = refuse .unpredictable s) :
    unlessPcOffset rm s k = refuse .unpredictable s := by
  unfold unlessPcOffset
  split
  · rfl
  · exact h (Bool.eq_false_iff.2 ‹_›)

theorem unlessPcLoad_refuses {rd : Reg} (h : (rd == 15) = false → k = refuse .unpredictable s) :
    unlessPcLoad rd s k = refuse .unpredictable s := by
  unfold unlessPcLoad
  split
  · rfl
  · exact h (Bool.eq_false_iff.2 ‹_›)

theorem unlessHalfRefused_refuses {p w : Bool} {rd : Reg}
    (h : halfRefused p w rd = false → k = refuse .unpredictable s) :
    unlessHalfRefused p w rd s k = refuse .unpredictable s := by
  unfold unlessHalfRefused
  split
  · rfl
  · exact h (Bool.eq_false_iff.2 ‹_›)

end

/-! ### The transfers that R268 refuses -/

/-- The transfer refuses what R268 refuses of every form (`bad`) and of a form with write-back (r15, `badBack`). -/
def RefusesBad (s : State) (rn : Reg) (bad badBack : Bool) (run : Bool → Transfer → State → Out) : Prop :=
  ∀ (priv : Bool) (t : Transfer), (bad || (t.back && (rn == 15 || badBack))) = true →
    run priv t s = refuse .unpredictable s

section
variable {n : Width} {ext : Word → Word} {rn rd : Reg} {s : State}

theorem refusesBad_ldrWord : RefusesBad s rn false false (ldrWord · rn rd) :=
  fun _ t h => if_pos (by simpa [Transfer.backToPc] using h)

theorem refusesBad_strWord : RefusesBad s rn false (rn == rd) (strWord · rn rd) :=
  fun _ t h => if_pos (by simpa [Transfer.backToPc, Transfer.backToData, and_or_left] using h)

theorem refusesBad_ldrNarrow : RefusesBad s rn (rd == 15) false (ldrNarrow n ext · rn rd) :=
  fun _ t h => if_pos (by simpa [Transfer.backToPc, or_comm] using h)

theorem refusesBad_strNarrow : RefusesBad s rn (rd == 15) (rn == rd) (strNarrow n · rn rd) :=
  fun _ t h => if_pos (by simpa [Transfer.backToPc, Transfer.backToData, and_or_left, or_comm, or_assoc] using h)

end

/-- What the six forms of addressing mode 2 run once their condition has passed, in the order of `mode2`: `guardT` stands
before the unprivileged forms. -/
def mode2Runs (u w : Bool) (rn : Reg) (off : BitVec 12) (op : RsiOp) (guardT : State → Out → Out)
    (run : Bool → Transfer → State → Out) : List (State → Out) :=
  [fun s => run s.privileged (preIndexed u w (s.readReg rn) (offset12 off)) s,
   fun s => run s.privileged (postIndexed u (s.readReg rn) (offset12 off)) s,
   fun s => guardT s (run false (postIndexed u (s.readReg rn) (offset12 off)) s),
   fun s => unlessPcOffset op.rm s (run s.privileged (preIndexed u w (s.readReg rn) (offsetReg op s)) s),
   fun s => unlessPcOffset op.rm s (run s.privileged (postIndexed u (s.readReg rn) (offsetReg op s)) s),
   fun s => guardT s (unlessPcOffset op.rm s (run false (postIndexed u (s.readReg rn) (offsetReg op s)) s))]

section
variable {s : State} {c : Cond} (hc : Cond.passes c s.flags = true) {u w : Bool} {rn rd rm : Reg} {width : Width}
  {bad badBack : Bool} {x : Single}
include hc

/-- Each form of addressing mode 2 stops at the first of its guards that R268 asks for, or in the transfer behind them. -/
theorem mode2_refuses {off : BitVec 12} {op : RsiOp} {badT : Bool} {immPre immPost immT regPre regPost regT : Instr}
    (hx : x ∈ mode2 s u w rn off op width bad badT badBack immPre immPost immT regPre regPost regT)
    (hr : x.refused = true) {guardT : State → Out → Out} {run : Bool → Transfer → State → Out}
    (hT : ∀ k, (badT = false → k = refuse .unpredictable s) → guardT s k = refuse .unpredictable s)
    (hrun : RefusesBad s rn bad badBack run)
    (hexec : [immPre, immPost, immT, regPre, regPost, regT].map (exec · s) =
      (mode2Runs u w rn off op guardT run).map (whenPassed c s)) :
    Refuses x.instr s .unpredictable := by
  simp only [mode2Runs, List.map_cons, List.map_nil, whenPassed_pass hc, List.cons.injEq, and_true] at hexec
  obtain ⟨himmPre, himmPost, himmT, hregPre, hregPost, hregT⟩ := hexec
  simp only [mode2, List.mem_cons, List.not_mem_nil, or_false] at hx
  rcases hx with rfl | rfl | rfl | rfl | rfl | rfl
  · exact himmPre.trans (hrun _ _ hr)
  · exact himmPost.trans (hrun _ _ hr)
  · exact himmT.trans (hT _ fun ht => hrun _ _ (by simpa [ht, postIndexed] using hr))
  · exact hregPre.trans (unlessPcOffset_refuses fun hm => hrun _ _ (by simpa [hm, preIndexed] using hr))
  · exact hregPost.trans (unlessPcOffset_refuses fun hm => hrun _ _ (by simpa [hm, postIndexed] using hr))
  · exact hregT.trans (hT _ fun ht => unlessPcOffset_refuses fun hm => hrun _ _ (by simpa [ht, hm, postIndexed] using hr))

/-- So does each form of addressing mode 3, behind the guard of R261. -/
theorem mode3_refuses {p : Bool} {off : BitVec 8} {ext : Word → Word} {imm reg : Instr}
    (hx : x ∈ mode3 s p u w rn rd off rm width ext badBack imm reg) (hr : x.refused = true)
    {run : Bool → Transfer → State → Out} (hrun : RefusesBad s rn (rd == 15) badBack run)
    (himm : exec imm s = whenPassed c s fun s =>
      unlessHalfRefused p w rd s (run s.privileged (halfTransfer p u w (s.readReg rn) (offset8 off)) s))
    (hreg : exec reg s = whenPassed c s fun s =>
      unlessHalfRefused p w rd s (unlessPcOffset rm s
        (run s.privileged (halfTransfer p u w (s.readReg rn) (s.readReg rm)) s))) :
    Refuses x.instr s .unpredictable := by
  have hback : ∀ o, (halfTransfer p u w (s.readReg rn) o).back = (!p || w) := by
    cases p <;> exact fun o => rfl
  have hrunBack : ∀ o, ((!p || w) && (rn == 15 || badBack)) = true →
      run s.privileged (halfTransfer p u w (s.readReg rn) o) s = refuse .unpredictable s :=
    fun o h => hrun _ _ (by rw [hback, h, Bool.or_true])
  rw [whenPassed_pass hc] at himm hreg
  simp only [mode3, List.mem_cons, List.not_mem_nil, or_false] at hx
  rcases hx with rfl | rfl
  · have hr : (halfRefused p w rd || ((!p || w) && (rn == 15 || badBack))) = true := hr
    exact himm.trans (unlessHalfRefused_refuses fun hh => hrunBack _ (by rwa [hh, Bool.false_or] at hr))
  · have hr : (halfRefused p w rd || ((!p || w) && (rn == 15 || badBack)) || rm == 15) = true := hr
    exact hreg.trans (unlessHalfRefused_refuses fun hh => unlessPcOffset_refuses fun hm =>
      hrunBack _ (by rwa [hh, hm, Bool.false_or, Bool.or_false] at hr))

variable {off : BitVec 12} {op : RsiOp} {p : Bool} {off8 : BitVec 8} (hr : x.refused = true)
include hr

theorem wordLoad_refuses (hx : x ∈ wordLoads s c u w rn rd off op) : Refuses x.instr s .unpredictable :=
  mode2_refuses hc hx hr (guardT := unlessPcLoad rd) (fun _ => unlessPcLoad_refuses) refusesBad_ldrWord rfl

theorem byteLoad_refuses (hx : x ∈ byteLoads s c u w rn rd off op) : Refuses x.instr s .unpredictable :=
  mode2_refuses hc hx hr (guardT := fun _ k => k) (fun _ h => h rfl) refusesBad_ldrNarrow rfl

theorem wordStore_refuses (hx : x ∈ wordStores s c u w rn rd off op) : Refuses x.instr s .unpredictable :=
  mode2_refuses hc hx hr (guardT := fun _ k => k) (fun _ h => h rfl) refusesBad_strWord rfl

theorem byteStore_refuses (hx : x ∈ byteStores s c u w rn rd off op) : Refuses x.instr s .unpredictable :=
  mode2_refuses hc hx hr (guardT := fun _ k => k) (fun _ h => h rfl) refusesBad_strNarrow rfl

theorem halfLoad_refuses (hx : x ∈ halfLoads s c p u w rn rd off8 rm) : Refuses x.instr s .unpredictable := by
  simp only [halfLoads, List.mem_append] at hx
  rcases hx with (hx | hx) | hx
  · exact mode3_refuses hc hx hr refusesBad_ldrNarrow rfl rfl
  · exact mode3_refuses hc hx hr refusesBad_ldrNarrow rfl rfl
  · exact mode3_refuses hc hx hr refusesBad_ldrNarrow rfl rfl

theorem halfStore_refuses (hx : x ∈ halfStores s c p u w rn rd off8 rm) : Refuses x.instr s .unpredictable :=
  mode3_refuses hc hx hr refusesBad_strNarrow rfl rfl

end

/-! ### The swaps (R266, R267) -/

section
variable {s : State} {n : Width} {rn rd rm : Reg}

theorem swap_refused (h : rd = 15 ∨ rm = 15 ∨ rn = 15 ∨ rn = rm ∨ rn = rd) :
    swap n rn rd rm s = refuse .unpredictable s :=
  if_pos (by simpa [or_assoc] using h)

/-- Past its restrictions a swap is the read, the write and the register write. -/
theorem swap_eq (h : ¬(rd = 15 ∨ rm = 15 ∨ rn = 15 ∨ rn = rm ∨ rn = rd)) : swap n rn rd rm s =
    andThen (memRead (s.readReg rn) n .read s.privileged s) fun r =>
      andThen (memWrite (s.readReg rn) n (s.readReg rm) s.privileged r.2) fun s' => .next (s'.writeReg rd r.1).advance :=
  if_neg (by simpa [or_assoc] using h)

/-- A swap of ordinary memory: Rm's value is stored over the bytes that Rd takes. -/
theorem swap_memory {i : Instr} {pa : Word} (hwf : s.mem.wf) (he : exec i s = swap n rn rd rm s)
    (h : ¬(rd = 15 ∨ rm = 15 ∨ rn = 15 ∨ rn = rm ∨ rn = rd))
    (hread : Reaches s (s.readReg rn) n .read s.privileged pa)
    (hwrite : Reaches s (s.readReg rn) n .write s.privileged pa) :
    Completes i s fun t =>
      Holds s t rd (s.mem.load pa n) ∧ BytesAt t pa n (s.readReg rm) ∧ SameBytesBut (InAccess pa n) s t ∧
      t.pc = s.pc + 4 ∧ SameRegsBut (s.cellsOf rd) s t ∧ t.cpsr = s.cpsr ∧ SameSystem s t ∧ SameDevices s t := by
  rw [swap_eq h, memRead_of_reaches hread, andThen_next, memWrite_of_reaches hwrite, andThen_next] at he
  obtain ⟨hrd, -⟩ := not_or.1 h
  have hmem : ({ s with mem := s.mem.store pa (s.readReg rm) n }.writeReg rd (s.mem.load pa n)).advance.mem =
      s.mem.store pa (s.readReg rm) n := by simp
  obtain ⟨hbytes, hrest⟩ := bytes_of_store hwf hmem
  refine ⟨_, he, holds_writeReg (t := { s with mem := s.mem.store pa (s.readReg rm) n }) rfl rd _, hbytes, hrest,
    by simp [hrd], fun k hk => ?_, by simp, by simp [SameSystem], by simp [SameDevices]⟩
  exact State.writeAs_cells _ s.mode rd _ hk

end

/-- Settles O38: each form is refused by one of its guards, or by the transfer behind them. -/
theorem transferRefusals : Obligations.TransferRefusals := by
  intro s c p u w rn rd rm off op off8 hc
  refine ⟨fun x hx hr => ?single, fun h => ?swap⟩
  case single =>
    simp only [List.mem_append] at hx
    rcases hx with ((((hx | hx) | hx) | hx) | hx) | hx
    · exact wordLoad_refuses hc hr hx
    · exact byteLoad_refuses hc hr hx
    · exact wordStore_refuses hc hr hx
    · exact byteStore_refuses hc hr hx
    · exact halfLoad_refuses hc hr hx
    · exact halfStore_refuses hc hr hx
  case swap =>
    simp only [List.forall_mem_cons]
    exact ⟨(whenPassed_pass hc _).trans (swap_refused h), (whenPassed_pass hc _).trans (swap_refused h),
      List.forall_mem_nil _⟩

/-- Settles O41: both swaps run `swap`, whose read faults first where the address is misaligned. -/
theorem swapResults : Obligations.SwapResults := by
  intro s c rn rd rm pa hwf hc hrd hrm hrn hnm hnd
  have h : ¬(rd = 15 ∨ rm = 15 ∨ rn = 15 ∨ rn = rm ∨ rn = rd) := by simp [hrd, hrm, hrn, hnm, hnd]
  have hswp : exec (.swp c rn rd rm) s = swap .word rn rd rm s := whenPassed_pass hc _
  have hswpb : exec (.swpb c rn rd rm) s = swap .byte rn rd rm s := whenPassed_pass hc _
  simp only [List.forall_mem_cons]
  refine ⟨⟨swap_memory hwf hswp h, swap_memory hwf hswpb h, List.forall_mem_nil _⟩, fun hm => ?misaligned⟩
  case misaligned =>
    rw [swap_eq h, memRead_misaligned hm] at hswp
    exact hswp

end Sys2Proof.Machine
end

section
/-! PROOFS. The addresses of a block transfer (46_block_transfer.md R290, R291): the listed registers in increasing order,
the number of them below a register, and the word of each, 4 above that of the register before it. -/

namespace Sys2Proof.Machine

open Sys2Proof.Claims

/-! ### The listed registers -/

section
variable {list : BitVec 16}

@[simp] theorem mem_listRegs {i : Reg} : i ∈ listRegs list ↔ list.getLsbD i.val = true := by
  have h : ∀ i : Reg, i ∈ allRegs := by decide
  simp [listRegs, h i]

theorem listRegs_sorted (list : BitVec 16) : (listRegs list).Pairwise (· < ·) := by
  have h : allRegs.Pairwise (· < ·) := by decide
  exact h.filter _

/-- A listed register parts the list into the registers before it and those after it. -/
theorem listRegs_split {k : Reg} (hk : list.getLsbD k.val = true) :
    ∃ pre post, listRegs list = pre ++ k :: post ∧ ∀ i, i ∈ pre ↔ Before list k i := by
  obtain ⟨pre, post, h⟩ := List.append_of_mem (mem_listRegs.2 hk)
  refine ⟨pre, post, h, fun i => ?_⟩
  have hsorted := listRegs_sorted list
  rw [h, List.pairwise_append, List.pairwise_cons] at hsorted
  obtain ⟨-, ⟨hpost, -⟩, hpre⟩ := hsorted
  rw [Before, ← mem_listRegs, h, List.mem_append, List.mem_cons]
  constructor
  · exact fun hi => ⟨.inl hi, hpre i hi k List.mem_cons_self⟩
  · rintro ⟨hi | rfl | hi, hlt⟩
    · exact hi
    · exact absurd hlt (lt_irrefl _)
    · exact absurd hlt (lt_asymm (hpost i hi))

/-! ### The number of listed registers below a register -/

theorem below_succ_of_listed {n : Nat} (h : list.getLsbD n = true) : below list (n + 1) = below list n + 1 := by
  rw [below, h, Bool.toNat_true]

theorem below_succ_of_clear {n : Nat} (h : list.getLsbD n = false) : below list (n + 1) = below list n := by
  rw [below, h, Bool.toNat_false, Nat.add_zero]

/-- Numbers that are not listed do not count. -/
theorem below_of_clear {n m : Nat} (hnm : n ≤ m) (h : ∀ j, n ≤ j → j < m → list.getLsbD j = false) :
    below list m = below list n := by
  induction m, hnm using Nat.le_induction with
  | base => rfl
  | succ m hm ih =>
    rw [below_succ_of_clear (h m hm m.lt_succ_self), ih fun j hj hjm => h j hj (hjm.trans m.lt_succ_self)]

/-- The listed ones among consecutive registers are those that the next number counts more. -/
theorem below_add_length (list : BitVec 16) : ∀ (is : List Reg) (n : Nat), is.map Fin.val = List.range' n is.length →
    below list (n + is.length) = below list n + (is.filter fun i => list.getLsbD i.val).length
  | [], n, _ => rfl
  | i :: is, n, h => by
    rw [List.map_cons, List.length_cons, List.range'_succ, List.cons.injEq] at h
    obtain ⟨rfl, h⟩ := h
    have ih := below_add_length list is (i.val + 1) h
    rw [List.length_cons, Nat.add_comm is.length 1, ← Nat.add_assoc, ih]
    cases hi : list.getLsbD i.val with
    | true => rw [below_succ_of_listed hi, List.filter_cons, hi, if_pos rfl, List.length_cons]; omega
    | false => rw [below_succ_of_clear hi, List.filter_cons, hi, if_neg Bool.false_ne_true]

theorem length_listRegs (list : BitVec 16) : (listRegs list).length = below list 16 :=
  (Nat.zero_add _).symm.trans (below_add_length list allRegs 0 (by decide)).symm

/-! ### The addresses -/

theorem blockStart_eq (p u : Bool) (b : Word) (list : BitVec 16) : blockStart p u b list = startOf p u b (below list 16) := by
  rw [← length_listRegs]
  rfl

theorem blockBack_eq (u : Bool) (b : Word) (list : BitVec 16) : blockBack u b list = backOf u b (below list 16) := by
  rw [← length_listRegs]
  rfl

/-- Four more for one more register. -/
theorem four_mul_succ (n : Nat) : BitVec.ofNat 32 (4 * (n + 1)) = BitVec.ofNat 32 (4 * n) + 4 := by
  rw [Nat.mul_succ, BitVec.ofNat_add]
  rfl

/-- The addresses of a list of registers: the first at `a`, each of the others 4 above the one before it. -/
def RisingFrom (addr : Reg → Word) : Word → List Reg → Prop
  | _, [] => True
  | a, i :: is => addr i = a ∧ RisingFrom addr (a + 4) is

theorem risingFrom_filter (list : BitVec 16) (b : Word) : ∀ (is : List Reg) (n : Nat),
    is.map Fin.val = List.range' n is.length →
    RisingFrom (fun i => b + BitVec.ofNat 32 (4 * below list i.val)) (b + BitVec.ofNat 32 (4 * below list n))
      (is.filter fun i => list.getLsbD i.val)
  | [], _, _ => trivial
  | i :: is, n, h => by
    rw [List.map_cons, List.length_cons, List.range'_succ, List.cons.injEq] at h
    obtain ⟨rfl, h⟩ := h
    have ih := risingFrom_filter list b is (i.val + 1) h
    cases hi : list.getLsbD i.val with
    | true =>
      rw [below_succ_of_listed hi, four_mul_succ, ← BitVec.add_assoc] at ih
      rw [List.filter_cons, hi, if_pos rfl]
      exact ⟨rfl, ih⟩
    | false =>
      rw [below_succ_of_clear hi] at ih
      rwa [List.filter_cons, hi, if_neg Bool.false_ne_true]

/-- The words of a block lie at the slots of its registers. -/
theorem risingFrom_listRegs (s : State) (p u : Bool) (rn : Reg) (list : BitVec 16) :
    RisingFrom (slot s p u rn list) (blockStart p u (s.readReg rn) list) (listRegs list) := by
  have h := risingFrom_filter list (startOf p u (s.readReg rn) (below list 16)) allRegs 0 (by decide)
  rw [below, Nat.mul_zero, BitVec.add_zero] at h
  rw [blockStart_eq]
  exact h

/-- The start, and 4 below the word after the last of n + 1 registers (R290). -/
theorem startOf_last (p u : Bool) (b : Word) (n : Nat) : startOf p u b (n + 1) + BitVec.ofNat 32 (4 * n) =
    match p, u with
    | false, true => b + BitVec.ofNat 32 (4 * (n + 1)) - 4
    | true, true => b + BitVec.ofNat 32 (4 * (n + 1))
    | false, false => b
    | true, false => b - 4 := by
  cases p <;> cases u <;> simp only [startOf, four_mul_succ] <;> ring

end

/-- Settles O42: below the first register none is listed, below the last one all others. -/
theorem blockAddresses : Obligations.BlockAddresses := by
  intro s p u rn list i _ hfirst k hk hlast n b
  have hi : below list i.val = 0 := by
    refine below_of_clear (Nat.zero_le _) fun j _ hj => ?_
    by_contra hlisted
    exact absurd (hfirst ⟨j, hj.trans i.isLt⟩ (by simpa using hlisted)) (not_le.2 hj)
  have hn : below list 16 = below list k.val + 1 := by
    rw [← below_succ_of_listed hk]
    refine below_of_clear k.isLt fun j hj h16 => ?_
    by_contra hlisted
    exact absurd (hlast ⟨j, h16⟩ (by simpa using hlisted)) (not_le.2 hj)
  have hlen : n = below list k.val + 1 := (length_listRegs list).trans hn
  refine ⟨?start, ?last, rfl⟩
  case start => rw [blockStart_eq, slot, hi, Nat.mul_zero, BitVec.add_zero]
  case last =>
    rw [slot, hn, hlen]
    exact startOf_last p u b _

end Sys2Proof.Machine
end

section
/-! PROOFS. The block loads (46_block_transfer.md R291 to R295, R298): what a run of loads of ordinary memory leaves of the
state (`LoadedInto`), with or without further loads after it; from it the results of LDM(1), LDM(2) and LDM(3). -/

namespace Sys2Proof.Machine

open Sys2Proof.Claims

/-! ### Loaded registers -/

/-- A loaded register put away in the bank of a mode; a loaded PC has its low two bits cleared (R293). -/
def putInto (m : Mode) (i : Reg) (v : Word) (s : State) : State :=
  if i = 15 then s.setPc (v &&& 0xFFFFFFFC#32) else s.writeAs m i v

/-- In the mode of s, `put` puts register i away in the bank of m. -/
def PutsInto (put : Reg → Word → State → State) (m : Mode) (s : State) (i : Reg) : Prop :=
  ∀ (v : Word) (t : State), t.mode = s.mode → put i v t = putInto m i v t

theorem putsInto_putLoaded (s : State) (i : Reg) : PutsInto putLoaded s.mode s i := by
  intro v t ht
  rw [← ht]
  rfl

theorem putsInto_putUser (s : State) {i : Reg} (hi : i ≠ 15) : PutsInto putUser .usr s i :=
  fun _ _ _ => (if_neg hi).symm

/-- The registers `is` of the bank of m, loaded from the words of s at `pa`; nothing else differs. -/
structure LoadedInto (m : Mode) (pa : Reg → Word) (is : List Reg) (s t : State) : Prop where
  loaded : ∀ i c, i ∈ is → m.cell i = some c → t.regs.get c = s.mem.load (pa i) .word
  kept : ∀ c, (∀ i ∈ is, m.cell i ≠ some c) → t.regs.get c = s.regs.get c
  pc : t.pc = if 15 ∈ is then s.mem.load (pa 15) .word &&& 0xFFFFFFFC#32 else s.pc
  rest : t = { s with regs := t.regs, pc := t.pc }

section
variable {m : Mode} {pa : Reg → Word} {is : List Reg} {s t : State}

theorem LoadedInto.refl (m : Mode) (pa : Reg → Word) (s : State) : LoadedInto m pa [] s s where
  loaded _ _ hi := absurd hi List.not_mem_nil
  kept _ _ := rfl
  pc := rfl
  rest := rfl

theorem LoadedInto.mem (h : LoadedInto m pa is s t) : t.mem = s.mem := by rw [h.rest]

theorem LoadedInto.cp15 (h : LoadedInto m pa is s t) : t.cp15 = s.cp15 := by rw [h.rest]

theorem LoadedInto.params (h : LoadedInto m pa is s t) : t.params = s.params := by rw [h.rest]

theorem LoadedInto.cpsr (h : LoadedInto m pa is s t) : t.cpsr = s.cpsr := by rw [h.rest]

/-- One more load, of a register not loaded before or of the same word. -/
theorem LoadedInto.snoc (h : LoadedInto m pa is s t) (k : Reg) :
    LoadedInto m pa (is ++ [k]) s (putInto m k (s.mem.load (pa k) .word) t) := by
  have hkept : ∀ {c}, (∀ i ∈ is ++ [k], m.cell i ≠ some c) → m.cell k ≠ some c ∧ t.regs.get c = s.regs.get c :=
    fun hc => ⟨hc k (by simp), h.kept _ fun i hi => hc i (by simp [hi])⟩
  unfold putInto
  by_cases hk : k = 15
  case pos =>
    subst hk
    rw [if_pos rfl]
    refine ⟨fun i c hi hc => ?_, fun c hc => (hkept hc).2, by simp, by rw [h.rest]; rfl⟩
    rcases List.mem_append.1 hi with hi | hi
    · exact h.loaded i c hi hc
    · rw [List.mem_singleton.1 hi, (m.cell_eq_none 15).2 rfl] at hc
      cases hc
  case neg =>
    obtain ⟨d, hd⟩ := m.cell_isSome hk
    rw [if_neg hk, t.writeAs_of_cell hd]
    refine ⟨fun i c hi hc => ?_, fun c hc => ?_, ?_, by rw [h.rest]⟩
    · rw [Regs.get_set]
      split
      · rw [m.cell_injective hc (‹c = d› ▸ hd)]
      · refine h.loaded i c ((List.mem_append.1 hi).resolve_right fun hik => ?_) hc
        rw [List.mem_singleton.1 hik, hd] at hc
        exact absurd (Option.some.inj hc).symm ‹_›
    · obtain ⟨hne, hs⟩ := hkept hc
      rw [Regs.get_set_ne _ fun e => hne (hd.trans (congrArg some e.symm)), hs]
    · simp [h.pc, Ne.symm hk]

/-- An access goes where memory, CP15 and the device ranges send it. -/
theorem reaches_congr {va pb : Word} {n : Width} {acc : Access} {priv : Bool} (hm : t.mem = s.mem) (hc : t.cp15 = s.cp15)
    (hp : t.params = s.params) (h : Reaches s va n acc priv pb) : Reaches t va n acc priv pb := by
  obtain ⟨ha, ht, hd⟩ := h
  exact ⟨ha, translate_congr hm hc ht, (deviceAt_congr hp pb).trans hd⟩

/-- The loads of a block up to any point of it: those of `is` from ordinary memory, whatever follows. -/
theorem loadBlock_append {put : Reg → Word → State → State} {addr : Reg → Word} {a : Word} {rest : List Reg}
    (hput : ∀ i ∈ is, PutsInto put m s i) (hreach : ∀ i ∈ is, Reaches s (addr i) .word .read s.privileged (pa i))
    (hrise : RisingFrom addr a (is ++ rest)) :
    ∃ t b, LoadedInto m pa is s t ∧ RisingFrom addr b rest ∧
      loadBlock put (is ++ rest) a s = loadBlock put rest b t := by
  induction is using List.reverseRecOn generalizing rest with
  | nil => exact ⟨s, a, .refl m pa s, hrise, rfl⟩
  | append_singleton is k ih =>
    rw [List.append_assoc, List.singleton_append] at hrise ⊢
    obtain ⟨t, _, ht, ⟨rfl, hrise⟩, he⟩ :=
      ih (fun i hi => hput i (by simp [hi])) (fun i hi => hreach i (by simp [hi])) hrise
    have hk := reaches_congr ht.mem ht.cp15 ht.params (hreach k (by simp))
    rw [← State.privileged_congr ht.cpsr] at hk
    refine ⟨_, _, ht.snoc k, hrise, he.trans ?_⟩
    rw [loadBlock, memRead_of_reaches hk, andThen_next, hput k (by simp) _ t (State.mode_congr ht.cpsr), ht.mem]

end

/-- All loads of a block. -/
theorem loadBlock_memory {s : State} {p u : Bool} {rn : Reg} {list : BitVec 16} {m : Mode} {pa : Reg → Word}
    {put : Reg → Word → State → State} (hput : ∀ i ∈ listRegs list, PutsInto put m s i)
    (hreach : BlockReaches s p u rn list .read pa) :
    ∃ t, loadBlock put (listRegs list) (blockStart p u (s.readReg rn) list) s = .next t ∧
      LoadedInto m pa (listRegs list) s t := by
  have hrise := risingFrom_listRegs s p u rn list
  rw [← List.append_nil (listRegs list)] at hrise
  obtain ⟨t, b, ht, -, he⟩ := loadBlock_append (rest := []) hput (fun i hi => hreach i (mem_listRegs.1 hi)) hrise
  rw [List.append_nil] at he
  exact ⟨t, he, ht⟩

/-! ### What the block loads run -/

theorem userList_eq (low : BitVec 15) : userList low = low.setWidth 16 :=
  (BitVec.setWidth_eq_append (by decide)).symm

theorem returnList_eq (low : BitVec 15) : returnList low = low.setWidth 16 ||| 0x8000#16 := by
  rw [returnList, BitVec.append_def, BitVec.or_comm]
  rfl

/-- The list of LDM(2) names no r15. -/
theorem ne_pc_of_mem_userList {low : BitVec 15} {i : Reg} (hi : i ∈ listRegs (low.setWidth 16)) : i ≠ 15 := by
  rintro rfl
  rw [← userList_eq] at hi
  exact pc_notMem_userList low hi

/-- What the user-bank forms ask for is what their guard checks (R294, R297). -/
theorem userBankRefused_iff {s : State} {w : Bool} :
    userBankRefused w s.mode = true ↔ w = true ∨ s.mode = .usr ∨ s.mode = .sys := by
  simp [userBankRefused, or_assoc]

/-- A user-bank form whose checks pass. -/
theorem userBank_passes {s : State} {w : Bool} {rn : Reg} {list : BitVec 16} (hbad : blockBad w rn list = false)
    (hb : UserBank s w) : (blockBad w rn list || userBankRefused w s.mode) = false := by
  obtain ⟨hw, husr, hsys⟩ := hb
  rw [hbad, Bool.false_or, Bool.eq_false_iff, ne_eq, userBankRefused_iff]
  simp [hw, husr, hsys]

/-- R299's check passes: the base is not r15, and with write-back it is not in the list. -/
theorem base_of_blockBad {w : Bool} {rn : Reg} {list : BitVec 16} (h : blockBad w rn list = false) :
    list ≠ 0 ∧ rn ≠ 15 ∧ (w = true → list.getLsbD rn.val = false) := by
  simpa [blockBad, and_assoc] using h

section
variable {s : State} {c : Cond} (hc : Cond.passes c s.flags = true) (p u w : Bool) (rn : Reg)
include hc

theorem exec_ldm1 (list : BitVec 16) : exec (.ldm1 c p u w rn list) s =
    if blockBad w rn list then refuse .unpredictable s
    else andThen (loadMultiple p u w rn list s) fun t => .next (advanceUnlessLoaded list t) := by
  show execLdm1 c p u w rn list s = _
  rw [execLdm1, whenPassed_pass hc]
  rfl

theorem exec_ldm2 (low : BitVec 15) : exec (.ldm2 c p u w rn low) s =
    if blockBad w rn (low.setWidth 16) || userBankRefused w s.mode then refuse .unpredictable s
    else andThen (loadBlock putUser (listRegs (low.setWidth 16)) (blockStart p u (s.readReg rn) (low.setWidth 16)) s)
      fun t => .next t.advance := by
  show execLdm2 c p u w rn low s = _
  rw [execLdm2, whenPassed_pass hc, userList_eq]
  rfl

theorem exec_ldm3 (low : BitVec 15) : exec (.ldm3 c p u w rn low) s =
    withRestorable s fun status =>
      if blockBad w rn (low.setWidth 16 ||| 0x8000#16) then refuse .unpredictable s
      else andThen (loadMultiple p u w rn (low.setWidth 16 ||| 0x8000#16) s) fun t =>
        .next (t.returnTo t.pc status) := by
  show execLdm3 c p u w rn low s = _
  rw [execLdm3, whenPassed_pass hc, returnList_eq]
  rfl

end

/-! ### The write-back (R298) -/

/-- With W = 1 the base's cell holds the new value; nothing else differs. -/
theorem blockWriteBack_spec {s t : State} (hm : t.mode = s.mode) {rn : Reg} (hrn : rn ≠ 15) (w : Bool) (v : Word) :
    ∃ r, blockWriteBack w rn v t = { t with regs := r } ∧ (w = true → ∀ c, s.mode.cell rn = some c → r.get c = v) ∧
      ∀ c, c ∉ (if w then s.cellsOf rn else []) → r.get c = t.regs.get c := by
  cases w with
  | false => exact ⟨t.regs, rfl, fun hw => absurd hw Bool.false_ne_true, fun _ _ => rfl⟩
  | true =>
    obtain ⟨d, hd⟩ := s.mode.cell_isSome hrn
    refine ⟨t.regs.set d v, ?_, fun _ c hc => ?_, fun c hc => Regs.get_set_ne _ (fun e => hc ?_) v⟩
    · rw [blockWriteBack, if_pos rfl, State.writeReg, hm, t.writeAs_of_cell hd]
    · rw [Option.some.inj (hc.symm.trans hd), Regs.get_set_same]
    · simp [State.cellsOf, hd, e]

/-! ### LDM(1) and LDM(3) with their write-back -/

/-- What LDM(1) and LDM(3) have done before they end: the listed registers loaded, with W = 1 the base written back with
`v`, and nothing else. -/
structure LoadedBack (w : Bool) (rn : Reg) (v : Word) (list : BitVec 16) (pa : Reg → Word) (s t : State) : Prop where
  loaded : ∀ i : Reg, list.getLsbD i.val = true → Holds s t i (s.mem.load (pa i) .word)
  back : w = true → Holds s t rn v
  kept : SameRegsBut (listCells s.mode list ++ if w then s.cellsOf rn else []) s t
  pc : t.pc = if list.getLsbD 15 then s.mem.load (pa 15) .word &&& 0xFFFFFFFC#32 else s.pc
  rest : t = { s with regs := t.regs, pc := t.pc }

theorem mem_listCells {m : Mode} {list : BitVec 16} {c : Cell} :
    c ∈ listCells m list ↔ ∃ i : Reg, list.getLsbD i.val = true ∧ m.cell i = some c := by
  simp only [listCells, List.mem_flatMap, List.mem_finRange, true_and]
  refine exists_congr fun i => ?_
  split
  · rw [Option.mem_toList]
    exact (and_iff_right ‹_›).symm
  · exact iff_of_false List.not_mem_nil fun h => absurd h.1 ‹_›

section
variable {m : Mode} {pa : Reg → Word} {list : BitVec 16} {s t : State}

theorem LoadedInto.sameRegsBut (h : LoadedInto m pa (listRegs list) s t) : SameRegsBut (listCells m list) s t :=
  fun c hc => h.kept c fun i hi hci => hc (mem_listCells.2 ⟨i, mem_listRegs.1 hi, hci⟩)

theorem LoadedInto.pc_list (h : LoadedInto m pa (listRegs list) s t) :
    t.pc = if list.getLsbD 15 then s.mem.load (pa 15) .word &&& 0xFFFFFFFC#32 else s.pc := by
  rw [h.pc]
  exact if_congr mem_listRegs rfl rfl

theorem LoadedInto.writeBack {w : Bool} {rn : Reg} (h : LoadedInto s.mode pa (listRegs list) s t)
    (hbad : blockBad w rn list = false) (v : Word) : LoadedBack w rn v list pa s (blockWriteBack w rn v t) := by
  obtain ⟨-, hrn, hlist⟩ := base_of_blockBad hbad
  obtain ⟨r, hr, hback, hkept⟩ := blockWriteBack_spec (State.mode_congr h.cpsr) hrn w v
  rw [hr]
  refine ⟨fun i hi c hc => ?loaded, hback, fun c hc => ?kept, h.pc_list, by rw [h.rest]⟩
  case loaded =>
    refine (hkept c ?_).trans (h.loaded i c (mem_listRegs.2 hi) hc)
    cases w with
    | false => exact List.not_mem_nil
    | true =>
      intro hci
      rw [s.mode.cell_injective hc (Option.mem_toList.1 hci), hlist rfl] at hi
      cases hi
  case kept =>
    rw [List.mem_append, not_or] at hc
    exact (hkept c hc.2).trans (h.sameRegsBut c hc.1)

end

theorem loadMultiple_memory {s : State} {p u w : Bool} {rn : Reg} {list : BitVec 16} {pa : Reg → Word}
    (hbad : blockBad w rn list = false) (hreach : BlockReaches s p u rn list .read pa) :
    ∃ t, loadMultiple p u w rn list s = .next t ∧
      LoadedBack w rn (backOf u (s.readReg rn) (below list 16)) list pa s t := by
  obtain ⟨t, he, ht⟩ := loadBlock_memory (fun i _ => putsInto_putLoaded s i) hreach
  refine ⟨_, ?_, ht.writeBack hbad _⟩
  rw [loadMultiple, he, andThen_next, blockBack_eq]

/-! ### The results -/

/-- What keeps its value where only registers and the raw PC differ. -/
theorem frame_of_regs {s t : State} (h : t = { s with regs := t.regs, pc := t.pc }) :
    t.cpsr = s.cpsr ∧ SameSystem s t ∧ SameBytes s t ∧ SameDevices s t := by
  rw [h]
  exact ⟨rfl, ⟨rfl, rfl, rfl, rfl⟩, fun _ => rfl, rfl, rfl⟩

theorem advanceUnlessLoaded_eq (list : BitVec 16) (t : State) :
    advanceUnlessLoaded list t = t.setPc (if list.getLsbD 15 then t.pc else t.pc + 4) := by
  unfold advanceUnlessLoaded
  split
  · rfl
  · rfl

/-- Settles O43: the loads of the whole list, the write-back of LDM(1), and the advance of a PC that is not loaded. -/
theorem loadMultipleResults : Obligations.LoadMultipleResults := by
  intro s c p u w rn pa hc
  refine ⟨fun list hbad hreach => ?ldm1, fun low => ?ldm2⟩
  case ldm1 =>
    obtain ⟨t, he, ht⟩ := loadMultiple_memory hbad hreach
    obtain ⟨hcpsr, hsystem, hbytes, hdevices⟩ := frame_of_regs ht.rest
    have hx := exec_ldm1 hc p u w rn list
    rw [hbad, if_neg Bool.false_ne_true, he, andThen_next, advanceUnlessLoaded_eq] at hx
    refine ⟨_, hx, ht.loaded, ?pc, ht.back, ht.kept, hcpsr, hsystem, hbytes, hdevices⟩
    case pc =>
      rw [State.setPc_pc, ht.pc]
      split
      · rfl
      · rfl
  case ldm2 =>
    intro l hbad hw husr hsys hreach
    obtain ⟨t, he, ht⟩ := loadBlock_memory (fun i hi => putsInto_putUser s (ne_pc_of_mem_userList hi)) hreach
    obtain ⟨hcpsr, hsystem, hbytes, hdevices⟩ := frame_of_regs ht.rest
    have hx := exec_ldm2 hc p u w rn low
    rw [userBank_passes hbad ⟨hw, husr, hsys⟩, if_neg Bool.false_ne_true, he, andThen_next] at hx
    refine ⟨_, hx, fun i k hi hk => ht.loaded i k (mem_listRegs.2 hi) hk, ?pc, ht.sameRegsBut, hcpsr, hsystem, hbytes,
      hdevices⟩
    case pc => rw [State.advance_pc, ht.pc, if_neg fun h => ne_pc_of_mem_userList h rfl]

/-- Settles O44: the checks of the restore come first, then that of the list; the return keeps the PC just loaded. -/
theorem loadMultipleReturns : Obligations.LoadMultipleReturns := by
  intro s c p u w rn pa low l hc
  have hx := exec_ldm3 hc p u w rn low
  refine ⟨fun h => hx.trans (withRestorable_of_none h _), fun k hk => ⟨fun hv => hx.trans (withRestorable_of_invalid hk hv _),
    fun hv hbad => hx.trans ((withRestorable_of_valid hk hv _).trans (if_pos hbad)), fun hv hbad hreach => ?loaded⟩⟩
  case loaded =>
    obtain ⟨t, he, ht⟩ := loadMultiple_memory hbad hreach
    obtain ⟨-, hsystem, hbytes, hdevices⟩ := frame_of_regs ht.rest
    rw [withRestorable_of_valid hk hv, hbad, if_neg Bool.false_ne_true, he, andThen_next] at hx
    refine ⟨_, hx, ht.loaded, ?pc, rfl, ht.back, ht.kept, hsystem, hbytes, hdevices⟩
    case pc =>
      rw [State.returnTo_pc, ht.pc, if_pos]
      simp [l]

end Sys2Proof.Machine
end

section
/-! PROOFS. The block stores (46_block_transfer.md R291, R296 to R298): what a run of stores to ordinary memory leaves of
the memory (`StoredFrom`), where a later store may replace an earlier one; from it the results of STM(1) and STM(2). -/

namespace Sys2Proof.Machine

open Sys2Proof.Claims

/-! ### Stored words -/

/-- Two aligned words that share a byte are one. -/
theorem eq_of_inAccess_word {pa pb : Word} (ha : misaligned pa .word = false) (hb : misaligned pb .word = false) {a : Nat}
    (hpa : InAccess pa .word a) (hpb : InAccess pb .word a) : pa = pb := by
  have hdiv : ∀ {q : Word}, misaligned q .word = false → InAccess q .word a → q.toNat = a / 4 * 4 := by
    rintro q hq ⟨k, hk, rfl⟩
    rw [aligned_iff] at hq
    have hlt := q.isLt
    rw [BitVec.toNat_add, BitVec.toNat_ofNat]
    simp only [Width.bytes] at hq hk
    omega
  exact BitVec.eq_of_toNat_eq ((hdiv ha hpa).trans (hdiv hb hpb).symm)

/-- A byte of the words of some registers. -/
def InWords (pa : Reg → Word) (is : List Reg) (a : Nat) : Prop := ∃ i ∈ is, InAccess (pa i) .word a

/-- Memory m is that of s with the values of the registers `is` stored at `pa` in order: of those at one address the last. -/
structure StoredFrom (pa value : Reg → Word) (is : List Reg) (s : State) (m : Memory) : Prop where
  stored : ∀ i ∈ is, (∀ j ∈ is, i < j → pa j ≠ pa i) → BytesAt { s with mem := m } (pa i) .word (value i)
  kept : SameBytesBut (InWords pa is) s { s with mem := m }
  wf : m.wf

section
variable {pa value : Reg → Word} {is : List Reg} {s : State} {m : Memory}

theorem StoredFrom.refl (pa value : Reg → Word) (hwf : s.mem.wf) : StoredFrom pa value [] s s.mem where
  stored _ hi := absurd hi List.not_mem_nil
  kept _ _ := rfl
  wf := hwf

/-- One more store, of a later register. -/
theorem StoredFrom.snoc (h : StoredFrom pa value is s m) {k : Reg} (hlt : ∀ i ∈ is, i < k)
    (hal : ∀ i ∈ is ++ [k], misaligned (pa i) .word = false) :
    StoredFrom pa value (is ++ [k]) s (m.store (pa k) (value k) .word) := by
  obtain ⟨hk, hother⟩ := bytes_of_store (s := { s with mem := m })
    (t := { s with mem := m.store (pa k) (value k) .word }) (pa := pa k) (v := value k) (n := .word) h.wf rfl
  refine ⟨fun i hi hlast => ?stored, fun a ha => ?kept, Memory.wf_store h.wf ..⟩
  case stored =>
    rcases List.mem_append.1 hi with his | hik
    · have hne : pa k ≠ pa i := hlast k (by simp) (hlt i his)
      intro n hn
      refine (hother _ fun hin => hne ?_).trans (h.stored i his (fun j hj => hlast j (by simp [hj])) n hn)
      exact eq_of_inAccess_word (hal k (by simp)) (hal i hi) hin ⟨n, hn, rfl⟩
    · rw [List.mem_singleton.1 hik]
      exact hk
  case kept =>
    refine (hother a fun hin => ha ⟨k, by simp, hin⟩).trans (h.kept a ?_)
    rintro ⟨i, hi, hin⟩
    exact ha ⟨i, by simp [hi], hin⟩

/-- The stores of a block up to any point of it: those of `is` to ordinary memory, whatever follows. -/
theorem storeBlock_append {addr : Reg → Word} {a : Word} {rest : List Reg} (hwf : s.mem.wf)
    (hreach : ∀ m, SameBytesBut (InWords pa is) s { s with mem := m } →
      ∀ i ∈ is, Reaches { s with mem := m } (addr i) .word .write s.privileged (pa i))
    (hsorted : is.Pairwise (· < ·)) (hrise : RisingFrom addr a (is ++ rest)) :
    ∃ m b, StoredFrom pa value is s m ∧ RisingFrom addr b rest ∧
      storeBlock ((is ++ rest).map value) a s = storeBlock (rest.map value) b { s with mem := m } := by
  induction is using List.reverseRecOn generalizing rest with
  | nil => exact ⟨s.mem, a, .refl pa value hwf, hrise, rfl⟩
  | append_singleton is k ih =>
    have hwords : ∀ a, InWords pa is a → InWords pa (is ++ [k]) a := fun a ⟨i, hi, hin⟩ => ⟨i, by simp [hi], hin⟩
    have hal : ∀ i ∈ is ++ [k], misaligned (pa i) .word = false := by
      intro i hi
      obtain ⟨ha, ht, -⟩ := hreach s.mem (fun _ _ => rfl) i hi
      exact translate_aligned .word ht ha
    obtain ⟨hsorted, -, hlt⟩ := List.pairwise_append.1 hsorted
    rw [List.append_assoc, List.singleton_append] at hrise ⊢
    obtain ⟨m, _, hm, ⟨rfl, hrise⟩, he⟩ := ih
      (fun m hm i hi => hreach m (fun a ha => hm a (mt (hwords a) ha)) i (by simp [hi])) hsorted hrise
    have hk : Reaches { s with mem := m } (addr k) .word .write s.privileged (pa k) :=
      hreach m (fun a ha => hm.kept a (mt (hwords a) ha)) k (by simp)
    refine ⟨_, _, hm.snoc (fun i hi => hlt i hi k (by simp)) hal, hrise, he.trans ?_⟩
    rw [List.map_cons, storeBlock]
    exact congrArg (andThen · _) (memWrite_of_reaches hk (value k))

end

/-! ### What the block stores run -/

section
variable {s : State} {c : Cond} (hc : Cond.passes c s.flags = true) (p u w : Bool) (rn : Reg) (list : BitVec 16)
include hc

theorem exec_stm1 : exec (.stm1 c p u w rn list) s =
    if blockBad w rn list then refuse .unpredictable s else storeMultiple p u w rn list s.readReg s := by
  show execStm1 c p u w rn list s = _
  rw [execStm1, whenPassed_pass hc]
  rfl

theorem exec_stm2 : exec (.stm2 c p u w rn list) s =
    if blockBad w rn list || userBankRefused w s.mode then refuse .unpredictable s
    else storeMultiple p u w rn list (s.readAs .usr) s := by
  show execStm2 c p u w rn list s = _
  rw [execStm2, whenPassed_pass hc]
  rfl

end

/-- The stores of a whole block, whose own stores do not change where its addresses go. -/
theorem storeMultiple_memory {s : State} {p u w : Bool} {rn : Reg} {list : BitVec 16} {pa : Reg → Word} (hwf : s.mem.wf)
    (hreach : BlockReaches s p u rn list .write pa) (hstable : BlockStable s p u rn list pa) (value : Reg → Word) :
    ∃ m, storeMultiple p u w rn list value s =
        .next (blockWriteBack w rn (backOf u (s.readReg rn) (below list 16)) { s with mem := m }).advance ∧
      StoredFrom pa value (listRegs list) s m := by
  have hall : ∀ m, SameBytesBut (InWords pa (listRegs list)) s { s with mem := m } → ∀ i ∈ listRegs list,
      Reaches { s with mem := m } (slot s p u rn list i) .word .write s.privileged (pa i) := by
    intro m hm i hi
    rw [mem_listRegs] at hi
    obtain ⟨ha, -, hd⟩ := hreach i hi
    refine ⟨ha, hstable m (fun a ha => hm a ?_) i hi, hd⟩
    rintro ⟨j, hj, hin⟩
    exact ha ⟨j, mem_listRegs.1 hj, hin⟩
  have hrise := risingFrom_listRegs s p u rn list
  rw [← List.append_nil (listRegs list)] at hrise
  obtain ⟨m, b, hm, -, he⟩ := storeBlock_append (rest := []) (value := value) hwf hall (listRegs_sorted list) hrise
  rw [List.append_nil] at he
  refine ⟨m, ?_, hm⟩
  rw [storeMultiple, he, List.map_nil, storeBlock, andThen_next, blockBack_eq]

/-- Settles O45: both forms run the stores, with the values of their own bank. -/
theorem storeMultipleResults : Obligations.StoreMultipleResults := by
  intro s c p u w rn pa list hwf hc hbad hreach hstable x hx huser
  have hexec : exec x.1 s = storeMultiple p u w rn list x.2.2 s := by
    simp only [List.mem_cons, List.not_mem_nil, or_false] at hx
    rcases hx with rfl | rfl
    · rw [exec_stm1 hc, hbad, if_neg Bool.false_ne_true]
    · rw [exec_stm2 hc, userBank_passes hbad (huser rfl), if_neg Bool.false_ne_true]
  obtain ⟨-, hrn, -⟩ := base_of_blockBad hbad
  obtain ⟨m, he, hm⟩ := storeMultiple_memory (w := w) hwf hreach hstable x.2.2
  obtain ⟨r, hr, hback, hkept⟩ := blockWriteBack_spec (s := s) (t := { s with mem := m }) rfl hrn w
    (backOf u (s.readReg rn) (below list 16))
  rw [hr] at he
  refine ⟨_, hexec.trans he, fun i hi hlast => ?stored, fun a ha => hm.kept a ?kept, rfl, hback, hkept, rfl,
    ⟨rfl, rfl, rfl, rfl⟩, rfl, rfl⟩
  case stored => exact hm.stored i (mem_listRegs.2 hi) fun j hj => hlast j (mem_listRegs.1 hj)
  case kept =>
    rintro ⟨i, hi, hin⟩
    exact ha ⟨i, mem_listRegs.1 hi, hin⟩

end Sys2Proof.Machine
end

section
/-! PROOFS. Where the block transfers stop (46_block_transfer.md R291, R298, R299): each form runs its block of accesses once
its checks have passed, and stops where an access does. The first one does at a misaligned start (20_memory.md R70), and
one part-way leaves what the accesses before it have done (40_dispatch.md R163). -/

namespace Sys2Proof.Machine

open Sys2Proof.Claims

/-! ### Each form runs its block of accesses -/

theorem andThen_assoc {α β γ : Type} (a : Host.Outcome α Fault Refusal) (f : α → Host.Outcome β Fault Refusal)
    (g : β → Host.Outcome γ Fault Refusal) : andThen (andThen a f) g = andThen a fun x => andThen (f x) g := by
  cases a <;> rfl

section
variable {s : State} {c : Cond} (hc : Cond.passes c s.flags = true) {p u w : Bool} {rn : Reg} {list : BitVec 16}
  {low : BitVec 15} {x : Block} (hready : x.ready) (hbad : blockBad w rn x.list = false)
include hc hready hbad

theorem exec_blockLoad (hx : x ∈ blockLoads s c p u w rn list low) : ∃ put k,
    (∀ i ∈ listRegs x.list, PutsInto put x.bank s i) ∧
      exec x.instr s = andThen (loadBlock put (listRegs x.list) (blockStart p u (s.readReg rn) x.list) s) k := by
  simp only [blockLoads, List.mem_cons, List.not_mem_nil, or_false] at hx
  rcases hx with rfl | rfl | rfl
  case inl =>
    have he := exec_ldm1 hc p u w rn list
    rw [if_neg (Bool.eq_false_iff.1 hbad), loadMultiple, andThen_assoc] at he
    exact ⟨putLoaded, _, fun i _ => putsInto_putLoaded s i, he⟩
  case inr.inl =>
    have he := exec_ldm2 hc p u w rn low
    rw [userBank_passes hbad hready, if_neg Bool.false_ne_true] at he
    exact ⟨putUser, _, fun i hi => putsInto_putUser s (ne_pc_of_mem_userList hi), he⟩
  case inr.inr =>
    obtain ⟨k, hk, hv⟩ := hready
    have he := exec_ldm3 hc p u w rn low
    rw [withRestorable_of_valid hk hv, if_neg (Bool.eq_false_iff.1 hbad), loadMultiple, andThen_assoc] at he
    exact ⟨putLoaded, _, fun i _ => putsInto_putLoaded s i, he⟩

theorem exec_blockStore (hx : x ∈ blockStores s c p u w rn list) :
    exec x.instr s = storeMultiple p u w rn x.list (s.readAs x.bank) s := by
  simp only [blockStores, List.mem_cons, List.not_mem_nil, or_false] at hx
  rcases hx with rfl | rfl
  case inl => exact (exec_stm1 hc ..).trans (if_neg (Bool.eq_false_iff.1 hbad))
  case inr => exact (exec_stm2 hc ..).trans (if_neg (Bool.eq_false_iff.1 (userBank_passes hbad hready)))

end

/-! ### A misaligned start -/

/-- The start is aligned as the base. -/
theorem startOf_misaligned {b : Word} (h : b.toNat % 4 ≠ 0) (p u : Bool) (n : Nat) : (startOf p u b n).toNat % 4 ≠ 0 := by
  have h4 : (4 : Word).toNat = 4 := rfl
  cases p <;> cases u <;>
    simp only [startOf, BitVec.toNat_add, BitVec.toNat_sub, BitVec.toNat_ofNat, h4] <;> omega

/-- R299's check passes only a list with a register. -/
theorem listRegs_ne_nil {list : BitVec 16} (h : list ≠ 0) : ∃ i is, listRegs list = i :: is := by
  refine List.exists_cons_of_ne_nil fun hnil => h (BitVec.eq_of_getLsbD_eq fun k hk => ?_)
  have hmem : (⟨k, hk⟩ : Reg) ∉ listRegs list := by rw [hnil]; exact List.not_mem_nil
  simpa using hmem

section
variable {a : Word} (ha : a.toNat % 4 ≠ 0) (s : State)
include ha

theorem loadBlock_misaligned (put : Reg → Word → State → State) (i : Reg) (is : List Reg) :
    loadBlock put (i :: is) a s = raise (.alignment a 4 .read) s := by
  rw [loadBlock, memRead_misaligned (n := .word) ha]
  rfl

theorem storeBlock_misaligned (v : Word) (vs : List Word) :
    storeBlock (v :: vs) a s = raise (.alignment a 4 .write) s := by
  rw [storeBlock, memWrite_misaligned (n := .word) ha]
  rfl

end

/-! ### Part-way -/

section
variable {s : State} {c : Cond} (hc : Cond.passes c s.flags = true) {p u w : Bool} {rn : Reg} {list : BitVec 16}
  {low : BitVec 15} {x : Block} (hready : x.ready) (hbad : blockBad w rn x.list = false) {k : Reg} {pa : Reg → Word}
  (hk : x.list.getLsbD k.val = true)
include hc hready hbad hk

/-- A block load stops where the translation of register k's address does, with the registers before it loaded. -/
theorem blockLoad_stopsAs (hx : x ∈ blockLoads s c p u w rn list low) (hpre : LoadsUpTo s p u rn x.list k pa) :
    ∃ pre t, (∀ i, i ∈ pre ↔ Before x.list k i) ∧ LoadedInto x.bank pa pre s t ∧
      StopsAs (translate (slot s p u rn x.list k) .read s.privileged t) (exec x.instr s) := by
  obtain ⟨put, next, hput, he⟩ := exec_blockLoad hc hready hbad hx
  obtain ⟨pre, post, hsplit, hbefore⟩ := listRegs_split hk
  obtain ⟨hreach, hal⟩ := hpre
  have hrise := risingFrom_listRegs s p u rn x.list
  rw [hsplit] at he hrise hput
  obtain ⟨t, _, ht, ⟨rfl, -⟩, hload⟩ := loadBlock_append (rest := k :: post) (fun i hi => hput i (by simp [hi]))
    (fun i hi => hreach i ((hbefore i).1 hi)) hrise
  refine ⟨pre, t, hbefore, ht, ?_⟩
  rw [he, hload, loadBlock, State.privileged_congr ht.cpsr]
  exact (stopsAs_memRead hal ..).trans ((stopsAs_andThen ..).trans (stopsAs_andThen ..))

/-- A block store stops where the translation of register k's address does, with the words before it stored. -/
theorem blockStore_stopsAs (hx : x ∈ blockStores s c p u w rn list) (hwf : s.mem.wf)
    (hpre : StoresUpTo s p u rn x.list k pa) :
    ∃ pre m, (∀ i, i ∈ pre ↔ Before x.list k i) ∧ StoredFrom pa (s.readAs x.bank) pre s m ∧
      StopsAs (translate (slot s p u rn x.list k) .write s.privileged { s with mem := m }) (exec x.instr s) := by
  have he := exec_blockStore hc hready hbad hx
  obtain ⟨pre, post, hsplit, hbefore⟩ := listRegs_split hk
  obtain ⟨hreach, hal⟩ := hpre
  have hrise := risingFrom_listRegs s p u rn x.list
  have hsorted := listRegs_sorted x.list
  rw [storeMultiple, hsplit] at he
  rw [hsplit] at hrise hsorted
  obtain ⟨m, _, hm, ⟨rfl, -⟩, hstore⟩ := storeBlock_append (rest := k :: post) (value := s.readAs x.bank) hwf
    (fun m hm i hi => hreach m (fun a ha => hm a fun ⟨j, hj, hin⟩ => ha ⟨j, (hbefore j).1 hj, hin⟩) i ((hbefore i).1 hi))
    (List.pairwise_append.1 hsorted).1 hrise
  refine ⟨pre, m, hbefore, hm, ?_⟩
  rw [he, hstore, List.map_cons, storeBlock]
  exact (stopsAs_memWrite hal ..).trans ((stopsAs_andThen ..).trans (stopsAs_andThen ..))

end

section
variable {s t : State} {m : Memory} {x : Block} {k : Reg} {pa : Reg → Word} {pre : List Reg}
  (hbefore : ∀ i, i ∈ pre ↔ Before x.list k i)
include hbefore

/-- r15 comes last, so the PC is not loaded. -/
theorem LoadedInto.pc_of_before (h : LoadedInto x.bank pa pre s t) : t.pc = s.pc := by
  rw [h.pc, if_neg]
  intro h15
  obtain ⟨-, hlt⟩ := (hbefore 15).1 h15
  exact absurd hlt (not_lt.2 (Fin.le_last k))

theorem LoadedInto.loadedPart (h : LoadedInto x.bank pa pre s t) (record : StopRecord) :
    LoadedPart x s { t with stop := record } k pa record := by
  have hpc := h.pc_of_before hbefore
  refine ⟨⟨rfl, hpc, ?_⟩, fun i cell hi hcell => h.loaded i cell ((hbefore i).2 hi) hcell,
    fun cell hcell => h.kept cell fun i hi => hcell i ((hbefore i).1 hi), fun a => ?_⟩
  · rw [h.rest]
    exact ⟨rfl, rfl, rfl, rfl, rfl, rfl⟩
  · rw [h.rest]

theorem StoredFrom.storedPart (h : StoredFrom pa (s.readAs x.bank) pre s m) (record : StopRecord) :
    StoredPart x s { s with mem := m, stop := record } k pa record :=
  ⟨⟨rfl, rfl, rfl, rfl, rfl, rfl, rfl, rfl⟩, rfl,
    fun i hi hlast => h.stored i ((hbefore i).2 hi) fun j hj => hlast j ((hbefore j).1 hj),
    fun a ha => h.kept a fun ⟨i, hi, hin⟩ => ha ⟨i, (hbefore i).1 hi, hin⟩⟩

end

/-- Settles O46: a refused form stops at its guard, and any other where its block of accesses does. -/
theorem blockStops : Obligations.BlockStops := by
  intro s c p u w rn list low hc l
  refine ⟨fun hbad => ⟨?ldm1, ?stm1⟩, fun h => ?ldm2, fun h => ?stm2, fun x hx hready hbad => ⟨fun hmis => ?loadStart, ?loadPart⟩,
    fun x hx hready hbad => ⟨fun hmis => ?storeStart, ?storePart⟩⟩
  case ldm1 => exact (exec_ldm1 hc ..).trans (if_pos hbad)
  case stm1 => exact (exec_stm1 hc ..).trans (if_pos hbad)
  case ldm2 => exact (exec_ldm2 hc ..).trans (if_pos (by rwa [Bool.or_eq_true, userBankRefused_iff]))
  case stm2 => exact (exec_stm2 hc ..).trans (if_pos (by rwa [Bool.or_eq_true, userBankRefused_iff]))
  case loadStart =>
    obtain ⟨put, next, -, he⟩ := exec_blockLoad hc hready hbad hx
    obtain ⟨i, is, hlist⟩ := listRegs_ne_nil (base_of_blockBad hbad).1
    rw [blockStart_eq, hlist, loadBlock_misaligned (startOf_misaligned hmis p u _)] at he
    exact he
  case loadPart =>
    intro k pa hk hpre va
    obtain ⟨pre, t, hbefore, ht, hstop⟩ := blockLoad_stopsAs hc hready hbad hk hx hpre
    have hagree := translate_agree ht.mem ht.cp15 va .read s.privileged
    refine ⟨fun r h => ⟨_, hstop.1 _ (hagree.raise h), ?_⟩, fun q h => ⟨_, hstop.2 _ (hagree.refuse h), ?_⟩⟩
    · rw [← ht.pc_of_before hbefore]
      exact ht.loadedPart hbefore _
    · rw [← ht.pc_of_before hbefore]
      exact ht.loadedPart hbefore _
  case storeStart =>
    have he := exec_blockStore hc hready hbad hx
    obtain ⟨i, is, hlist⟩ := listRegs_ne_nil (base_of_blockBad hbad).1
    rw [storeMultiple, blockStart_eq, hlist, List.map_cons, storeBlock_misaligned (startOf_misaligned hmis p u _)] at he
    exact he
  case storePart =>
    intro k pa hwf hk hpre va
    obtain ⟨pre, m, hbefore, hm, hstop⟩ := blockStore_stopsAs hc hready hbad hk hx hwf hpre
    have hkept : SameBytesBut (StoredBefore x.list k pa) s { s with mem := m } :=
      fun a ha => hm.kept a fun ⟨i, hi, hin⟩ => ha ⟨i, (hbefore i).1 hi, hin⟩
    exact ⟨fun r h => ⟨_, hstop.1 _ (h m hkept), hm.storedPart hbefore _⟩,
      fun q h => ⟨_, hstop.2 _ (h m hkept), hm.storedPart hbefore _⟩⟩

end Sys2Proof.Machine
end

section
/-! PROOFS. What usr mode cannot reach (60_exceptions.md R342, 10_state.md R36, 43_status_register.md R233, 47_coprocessor.md
R315): of the effects of an instruction only the ordinary ones and an MSR of the condition flags are left to it, unless it
takes an exception. -/

namespace Sys2Proof.Machine

open Sys2Proof.Claims

/-- The M field lies in the control byte (10_state.md R28). -/
theorem mode_of_control {s t : State} (h : t.cpsr.extractLsb' 0 8 = s.cpsr.extractLsb' 0 8) : t.mode = s.mode := by
  have hfield (p : Word) : modeField p = (p.extractLsb' 0 8).extractLsb' 0 5 := by
    apply BitVec.eq_of_getLsbD_eq
    intro k hk
    simp [modeField, hk]
  rw [State.mode, State.mode, hfield, hfield, h]

/-- In usr mode there is no SPSR to restore from or to write, and no way into CP15 or into the user bank by LDM(2). -/
theorem Effect.ordinary_or_msrCpsr {i : Instr} {s t : State} (h : Effect i s t) (hu : s.mode = .usr)
    (hi : entersException i = false) : Ordinary s t ∨ MsrLeaves false s t := by
  have hspsr : s.mode.spsrCell = none := congrArg Mode.spsrCell hu
  cases h with
  | ordinary h => exact .inl h
  | userLoads hn => exact absurd hu hn
  | restored _ h =>
    obtain ⟨p, hp, -⟩ := h.status
    simp [readSpsr_eq, hspsr] at hp
  | status r _ _ h =>
    cases r with
    | false => exact .inr h
    | true =>
      obtain ⟨-, k, v, hk, -⟩ := h.spsr rfl
      simp [hspsr] at hk
  | entered he => exact absurd he (by simp [hi])
  | cp15 _ hn => exact absurd hu hn

/-- Settles O59: an ordinary effect leaves every privileged register, and in usr mode MSR writes no control byte. -/
theorem userIsConfined : Obligations.UserIsConfined := by
  intro i s t hu h hi
  rcases (effect_of_exec_eq_next h).ordinary_or_msrCpsr hu hi with h | h
  · exact ⟨h.mode.trans hu, h.spsr, h.cp15, extractLsb'_congr_of_status h.status (by decide),
      fun k hk => h.regs k (by rwa [hu])⟩
  · obtain ⟨-, -, hcontrol, hspsr⟩ := h.cpsr rfl
    obtain ⟨hregs, hcp15, -⟩ := h.rest
    exact ⟨(mode_of_control (hcontrol hu)).trans hu, hspsr, hcp15, hcontrol hu, fun k _ => by rw [hregs]⟩

end Sys2Proof.Machine
end

section
/-! PROOFS. MCR and MRC (47_coprocessor.md R310 to R316): the checks they share, one lemma for each in the order of R310, and
the (CRn, opcode_2) tables behind them. -/

namespace Sys2Proof.Machine

open Sys2Proof.Claims

/-! ### The shared checks (R310, R315, R316) -/

section
variable {s : State} {cp : BitVec 4} {rd : Reg} {k : Out}

theorem withCp15_otherCoprocessor (hcp : cp ≠ 15) :
    withCp15 cp rd s k = raise (.protocolViolation .coprocessorUnhandled) s :=
  if_pos (by simpa using hcp)

theorem withCp15_usr (hu : s.mode = .usr) : withCp15 15 rd s k = refuse .userModeCP15 s := by
  simp [withCp15, hu]

theorem withCp15_pc (hu : s.mode ≠ .usr) : withCp15 15 15 s k = refuse .unpredictable s := by
  simp [withCp15, hu]

theorem withCp15_passes (hu : s.mode ≠ .usr) (hrd : rd ≠ 15) : withCp15 15 rd s k = k := by
  simp [withCp15, hu, hrd]

end

/-! ### The tables (R311 to R314) -/

theorem readCp15_unhandled {crn : BitVec 4} {op2 : BitVec 3}
    (h : ¬((crn = 0 ∧ (op2 = 0 ∨ op2 = 1)) ∨ ((crn = 1 ∨ crn = 2 ∨ crn = 3) ∧ op2 = 0))) (s : State) :
    readCp15 crn op2 s = none := by
  unfold readCp15
  split
  case h_6 => rfl
  all_goals bv_omega

theorem writeCp15_unhandled {crn : BitVec 4} {op2 : BitVec 3} (h : ¬((crn = 1 ∨ crn = 2 ∨ crn = 3) ∧ op2 = 0))
    (h7 : crn ≠ 7) (h8 : crn ≠ 8) (v : Word) (s : State) :
    writeCp15 crn op2 v s = raise (.protocolViolation .coprocessorUnhandled) s := by
  unfold writeCp15
  split
  case h_6 => rfl
  all_goals bv_omega

theorem writeControl_bigEndian {v : Word} (h : v.getLsbD 7 = true) (s : State) :
    writeControl v s = refuse .bigEndianUnsupported s :=
  if_pos h

theorem writeControl_littleEndian {v : Word} (h : v.getLsbD 7 = false) (s : State) :
    writeControl v s = .next { s with cp15 := { s.cp15 with control := v } }.advance :=
  if_neg (Bool.eq_false_iff.1 h)

/-! ### The instructions with their condition passed -/

section
variable {s : State} {c : Cond} (hc : Cond.passes c s.flags = true) (op1 op2 : BitVec 3) (crn crm cp : BitVec 4) (rd : Reg)
include hc

theorem execMcr_eq : execMcr c op1 crn rd cp op2 crm s = withCp15 cp rd s (writeCp15 crn op2 (s.readReg rd) s) :=
  whenPassed_pass hc _

theorem execMrc_eq : execMrc c op1 crn rd cp op2 crm s = withCp15 cp rd s ((readCp15 crn op2 s).elim
    (raise (.protocolViolation .coprocessorUnhandled) s) fun v => .next (s.writeReg rd v).advance) :=
  (whenPassed_pass hc _).trans (by cases readCp15 crn op2 s <;> rfl)

end

/-- Settles O48: the checks of `withCp15` stop both instructions alike, and the tables decide the rest. -/
theorem cp15Stops : Obligations.Cp15Stops := by
  intro s c op1 op2 crn crm cp rd hc both
  have hmcr := execMcr_eq hc op1 op2 crn crm cp rd
  have hmrc := execMrc_eq hc op1 op2 crn crm cp rd
  refine ⟨?other, ?usr, ?pc, ?table⟩
  case other => exact fun hcp => ⟨hmcr.trans (withCp15_otherCoprocessor hcp), hmrc.trans (withCp15_otherCoprocessor hcp)⟩
  case usr =>
    rintro rfl hu
    exact ⟨hmcr.trans (withCp15_usr hu), hmrc.trans (withCp15_usr hu)⟩
  case pc =>
    rintro rfl hu rfl
    exact ⟨hmcr.trans (withCp15_pc hu), hmrc.trans (withCp15_pc hu)⟩
  case table =>
    rintro rfl hu hrd
    rw [withCp15_passes hu hrd] at hmcr hmrc
    refine ⟨fun h h7 h8 => hmcr.trans (writeCp15_unhandled h h7 h8 _ s), fun h => ?_, ?_⟩
    · rw [readCp15_unhandled h] at hmrc
      exact hmrc
    · rintro rfl rfl hbig
      exact hmcr.trans (writeControl_bigEndian hbig s)

/-- An MCR that goes on leaves a new CP15 and advances the PC. -/
theorem completes_of_cp15 {i : Instr} {s : State} {new : Cp15} (h : exec i s = .next { s with cp15 := new }.advance) :
    Completes i s fun t => t.cp15 = new ∧ t.pc = s.pc + 4 ∧ t.regs = s.regs ∧ t.cpsr = s.cpsr ∧ t.spsr = s.spsr ∧
      t.stop = s.stop ∧ t.params = s.params ∧ SameBytes s t ∧ SameDevices s t :=
  ⟨_, h, rfl, rfl, rfl, rfl, rfl, rfl, rfl, fun _ => rfl, rfl, rfl⟩

/-- Settles O47: past the checks MCR runs its entry of the table, and MRC puts what its entry reads into Rd. -/
theorem cp15Transfers : Obligations.Cp15Transfers := by
  intro s c op1 op2 crm rd hc hu hrd mcr mrc
  have hmcr (crn : BitVec 4) (o : BitVec 3) : exec (.mcr c op1 crn rd 15 o crm) s = writeCp15 crn o (s.readReg rd) s :=
    (execMcr_eq hc op1 o crn crm 15 rd).trans (withCp15_passes hu hrd)
  have hmrc (crn : BitVec 4) (o : BitVec 3) (v : Word) (hv : readCp15 crn o s = some v) : mrc crn o v :=
    putsResult_of_exec hrd ((execMrc_eq hc op1 o crn crm 15 rd).trans ((withCp15_passes hu hrd).trans (by rw [hv]; rfl)))
  refine ⟨fun hlittle => ?control, ?ttb, ?dacr, ?cache, ?tlb, hmrc 0 0 _ rfl, hmrc 0 1 _ rfl, hmrc 1 0 _ rfl,
    hmrc 2 0 _ rfl, hmrc 3 0 _ rfl⟩
  case control => exact completes_of_cp15 ((hmcr 1 0).trans (writeControl_littleEndian hlittle s))
  case ttb => exact completes_of_cp15 (hmcr 2 0)
  case dacr => exact completes_of_cp15 (hmcr 3 0)
  case cache => exact completes_of_cp15 (hmcr 7 op2)
  case tlb => exact completes_of_cp15 (hmcr 8 op2)

end Sys2Proof.Machine
end

section
/-! PROOFS. Taking an exception (60_exceptions.md R338 to R341): SWI and BKPT are one update of the state, `takeException`,
and MOVS pc, lr in the mode entered returns from it. -/

namespace Sys2Proof.Machine

open Sys2Proof.Claims

/-! ### The state on entry (R338) -/

/-- The reserved bits and the flags are as they were. -/
theorem extractLsb'_entryStatus (m : Mode) (p : Word) : (entryStatus m p).extractLsb' 8 24 = p.extractLsb' 8 24 := by
  apply BitVec.eq_of_getLsbD_eq
  intro k hk
  simp [hk, entryStatus_getLsbD, show ¬8 + k < 5 by omega, show 8 + k ≠ 5 by omega, show 8 + k ≠ 7 by omega]

section
variable (s : State) (m : Mode) (off : Word)

@[simp] theorem State.takeException_pc : (s.takeException m off).pc = s.vectorBase + off := rfl

@[simp] theorem State.takeException_cpsr : (s.takeException m off).cpsr = entryStatus m s.cpsr := by
  simp [State.takeException]

@[simp] theorem State.takeException_cp15 : (s.takeException m off).cp15 = s.cp15 := by simp [State.takeException]

@[simp] theorem State.takeException_mem : (s.takeException m off).mem = s.mem := by simp [State.takeException]

@[simp] theorem State.takeException_stop : (s.takeException m off).stop = s.stop := by simp [State.takeException]

@[simp] theorem State.takeException_params : (s.takeException m off).params = s.params := by simp [State.takeException]

@[simp] theorem State.takeException_devLog : (s.takeException m off).devLog = s.devLog := by simp [State.takeException]

@[simp] theorem State.takeException_draws : (s.takeException m off).draws = s.draws := by simp [State.takeException]

@[simp] theorem State.takeException_mode : (s.takeException m off).mode = m := by simp [State.mode]

theorem sameBytes_takeException : SameBytes s (s.takeException m off) := fun _ => by rw [State.takeException_mem]

theorem sameDevices_takeException : SameDevices s (s.takeException m off) :=
  ⟨s.takeException_devLog m off, s.takeException_draws m off⟩

variable {k : SpsrCell} (hk : m.spsrCell = some k)
include hk

theorem takeException_spsr : (s.takeException m off).spsr = s.spsr.set k s.cpsr := by
  rw [takeException_eq s m off hk]

theorem takeException_regs : (s.takeException m off).regs = s.regs.set m.r14 (s.pc + 4) := by
  rw [takeException_eq s m off hk]

theorem spsr_get_takeException_ne {j : SpsrCell} (hj : j ≠ k) :
    (s.takeException m off).spsr.get j = s.spsr.get j := by
  rw [takeException_spsr s m off hk, Spsrs.get_set_ne _ hj]

theorem sameRegsBut_takeException : SameRegsBut [m.r14] s (s.takeException m off) := by
  intro c hc
  rw [takeException_regs s m off hk, Regs.get_set_ne _ (by simpa using hc)]

theorem readSpsr_takeException : (s.takeException m off).readSpsr = some s.cpsr := by
  rw [readSpsr_eq, State.takeException_mode, hk, takeException_spsr s m off hk, Option.map_some, Spsrs.get_set_same]

/-- r14 of the mode entered holds the address of the next instruction. -/
theorem readReg_14_takeException : (s.takeException m off).readReg 14 = s.pc + 4 := by
  have hcell : m.cell 14 = some m.r14 := rfl
  rw [State.readReg, State.takeException_mode, State.readAs_of_cell _ hcell, takeException_regs s m off hk,
    Regs.get_set_same]

/-- What an instruction that takes an exception leaves of each part of the state. -/
theorem completes_of_takeException {i : Instr} (h : exec i s = .next (s.takeException m off)) :
    Completes i s fun t =>
      t.cpsr.extractLsb' 0 5 = m.bits ∧ t.cpsr.getLsbD 5 = false ∧ t.cpsr.getLsbD 6 = s.cpsr.getLsbD 6 ∧
      t.cpsr.getLsbD 7 = true ∧ t.cpsr.extractLsb' 8 24 = s.cpsr.extractLsb' 8 24 ∧
      t.spsr.get k = s.cpsr ∧ (∀ j, j ≠ k → t.spsr.get j = s.spsr.get j) ∧
      t.regs.get m.r14 = s.pc + 4 ∧ SameRegsBut [m.r14] s t ∧ t.pc = s.vectorBase + off ∧
      t.cp15 = s.cp15 ∧ t.stop = s.stop ∧ t.params = s.params ∧ SameBytes s t ∧ SameDevices s t := by
  refine ⟨_, h, ?_⟩
  simp only [State.takeException_cpsr, takeException_spsr s m off hk, takeException_regs s m off hk]
  exact ⟨modeField_entryStatus m s.cpsr, entryStatus_getLsbD m s.cpsr 5, entryStatus_getLsbD m s.cpsr 6,
    entryStatus_getLsbD m s.cpsr 7, extractLsb'_entryStatus m s.cpsr, Spsrs.get_set_same ..,
    fun _ hj => Spsrs.get_set_ne _ hj _, Regs.get_set_same .., sameRegsBut_takeException s m off hk,
    s.takeException_pc m off, s.takeException_cp15 m off, s.takeException_stop m off, s.takeException_params m off,
    sameBytes_takeException s m off, sameDevices_takeException s m off⟩

end

theorem execSwi_eq {s : State} {c : Cond} (hc : Cond.passes c s.flags = true) (imm : BitVec 24) :
    execSwi c imm s = .next (s.takeException .svc 0x08) := whenPassed_pass hc _

theorem execBkpt_al (imm : BitVec 16) (s : State) : execBkpt .al imm s = .next (s.takeException .abt 0x0C) := rfl

/-- Settles O49: each of the two takes its exception, whatever its immediate. -/
theorem exceptionEntries : Obligations.ExceptionEntries := by
  intro s c imm imm16 base
  simp only [List.forall_mem_cons]
  refine ⟨fun hc => ?swi, fun _ => ?bkpt, List.forall_mem_nil _⟩
  case swi => exact completes_of_takeException s .svc 0x08 rfl (execSwi_eq hc imm)
  case bkpt => exact completes_of_takeException s .abt 0x0C rfl (execBkpt_al imm16 s)

/-! ### The return (R183, R341) -/

/-- MOVS pc, lr: the unshifted r14 goes to the PC and the SPSR to CPSR. -/
theorem exec_movs_pc_lr (t : State) : exec (.movRsi .al true 15 ⟨0, .lsl, 14⟩) t =
    withRestorable t fun p => .next (t.returnTo (t.readReg 14) p) := rfl

/-- Settles O50: the SPSR of the entry is the old status, its r14 the next address, and the return writes neither back. -/
theorem swiReturns : Obligations.SwiReturns := by
  intro s imm hv
  have hret := (exec_movs_pc_lr _).trans (withRestorable_ok (readSpsr_takeException s .svc 0x08 rfl) hv _)
  rw [readReg_14_takeException s .svc 0x08 rfl] at hret
  exact ⟨_, execSwi_eq rfl imm, _, hret, rfl, rfl, sameRegsBut_takeException s .svc 0x08 rfl,
    fun _ hj => spsr_get_takeException_ne s .svc 0x08 rfl hj, s.takeException_cp15 .svc 0x08,
    sameBytes_takeException s .svc 0x08, sameDevices_takeException s .svc 0x08⟩

end Sys2Proof.Machine
end
